-- ==== Sys2Proof/Word.lean ====
section
/-! DEFINITION. The machine word (spec/00_scope.md R9, R10).

Every quantity of the block is unsigned. The operators of R10 are Lean's own on `BitVec 32`: `^^^`, `&&&`, `|||`,
the logical right shift `>>>`, the truncating left shift `<<<`, and `*`, `+` which wrap modulo 2^32 (R91).
There is no rotation and no signed operation anywhere (spec/90_conflicts.md C2). -/

namespace Sys2Proof

/-- R9: a word is an unsigned integer 0 .. 2^32 - 1; bit 0 is its least significant bit. -/
abbrev Word := BitVec 32

/-- R60: the 8-bit fields `OP` and `ARG` of a command header, and the `STATUS` field of a response header. -/
abbrev Octet := BitVec 8

end Sys2Proof
end

