-- ==== Sys2Proof/Config.lean ====
section
/-! DEFINITION. What is fixed for the machine. spec/00_scope.md R8: no parameter is left open, "a model of this block takes
no configuration argument", and spec/93_implementation_defined.md says nothing has the treatment `any value`: so there
is no free value here. This file holds the sizes that stand in types (R7, R20, R23); the constants of the algorithm
are in Machine/Params.lean. -/

namespace Sys2Proof

/-- R20, R21: the state array `MT[0..623]`, exactly 624 words; both invariants of R21 hold by this type. -/
abbrev MT := Vector Word 624

/-- R31, R41: an index of `MT`, 0..623. Every index the block forms lies in this range, so there is no bounds fault. -/
abbrev Index := Fin 624

/-- R23, R25: the cursor, a number 0..624 ("a model should type `IDX` as a natural number less than 625"). -/
abbrev Cursor := Fin 625

end Sys2Proof
end

