-- ==== Sys2Proof/Syntax.lean ====
section
/-! DEFINITION. The commands (spec/30_encoding.md R62), one constructor per row of spec/opcode_table.json.

R60: every packet has the one format PKT: `OP` selects the constructor, `ARG` is the first field, and the payload
words `P[0] .. P[LEN-1]` are the second; `LEN` is the payload's length. The illegal values of `ARG` and `LEN` are kept
(R65: such a packet decodes to its command and raises the error R63 names), so that the commands themselves make the
checks of R156. -/

namespace Sys2Proof

/-- R62: the six commands. -/
inductive Instr where
  /-- R90: replace the state by the expansion of one seed. Legal: `arg = 0`, no payload (seed 0) or one word. -/
  | seed (arg : Octet) (payload : List Word)
  /-- R140: return the next output. `arg` is the requested width in bits; legal: 32, no payload. -/
  | next (arg : Octet) (payload : List Word)
  /-- R130: load the untempered values of 624 observed outputs. Legal: `arg = 0`, 624 words. -/
  | reconstruct (arg : Octet) (payload : List Word)
  /-- R110: temper one word. Legal: `arg = 0`, one word. -/
  | temper (arg : Octet) (payload : List Word)
  /-- R120: untemper one word. Legal: `arg = 0`, one word. -/
  | untemper (arg : Octet) (payload : List Word)
  /-- R104: twist now. Legal: `arg = 0`, no payload. -/
  | twist (arg : Octet) (payload : List Word)
  deriving DecidableEq, Repr

/-- R60: the `ARG` field. -/
def Instr.arg : Instr → Octet
  | .seed a _ => a
  | .next a _ => a
  | .reconstruct a _ => a
  | .temper a _ => a
  | .untemper a _ => a
  | .twist a _ => a

/-- R60: the payload words. -/
def Instr.payload : Instr → List Word
  | .seed _ p => p
  | .next _ p => p
  | .reconstruct _ p => p
  | .temper _ p => p
  | .untemper _ p => p
  | .twist _ p => p

end Sys2Proof
end

