-- ==== Sys2Proof/WellFormed.lean ====
section
/-! DEFINITION. Which terms of `Instr` stand for a packet (`wellFormed`), and which of those packets are legal
(`legal`, spec/30_encoding.md R63). An illegal packet is still a packet: the block answers it with an error. -/

namespace Sys2Proof

/-- R60: `LEN` is a 16-bit field, so a payload has 0..65535 words; `ARG` fits its field by type. -/
def Instr.wellFormed (i : Instr) : Bool := decide (i.payload.length < 65536)

/-- R63: the legal `ARG` and `LEN` of each command. -/
def Instr.legal : Instr → Bool
  | .seed arg p => decide (arg = 0#8) && decide (p.length ≤ 1)
  | .next arg p => decide (arg = 32#8) && decide (p.length = 0)
  | .reconstruct arg p => decide (arg = 0#8) && decide (p.length = 624)
  | .temper arg p => decide (arg = 0#8) && decide (p.length = 1)
  | .untemper arg p => decide (arg = 0#8) && decide (p.length = 1)
  | .twist arg p => decide (arg = 0#8) && decide (p.length = 0)

end Sys2Proof
end

