-- ==== Sys2Proof/Decode.lean ====
section
/-! DEFINITION. The command packet (spec/30_encoding.md R60 to R68): header fields, the decoder, and after it the
encoder. Decoding is total on any list of words (R65): a whole packet is one of the six commands or has an unknown
`OP`; a list that stops short of a whole packet is no command (R67). -/

namespace Sys2Proof

/-- R60: `OP = H[31:24]`. -/
def headerOp (h : Word) : Octet := h.extractLsb' 24 8

/-- R60: `ARG = H[23:16]`. -/
def headerArg (h : Word) : Octet := h.extractLsb' 16 8

/-- R60: `LEN = H[15:0]`, the number of payload words that follow the header. -/
def headerLen (h : Word) : Nat := (h.extractLsb' 0 16).toNat

/-- What a list of words decodes to (R65, R67). -/
inductive Decoded where
  /-- One of the six commands, and the words after its packet. -/
  | command (i : Instr) (rest : List Word)
  /-- A whole packet whose `OP` names no command (R66 a), and the words after it. -/
  | unknownOp (op : Octet) (rest : List Word)
  /-- No header, or fewer than `LEN` words after it (R67). -/
  | incomplete
  deriving DecidableEq, Repr

/-- The first `n` words and the words after them; nothing where there are fewer. -/
def takeWords : Nat → List Word → Option (List Word × List Word)
  | 0, ws => some ([], ws)
  | _ + 1, [] => none
  | n + 1, w :: ws =>
    match takeWords n ws with
    | some (taken, rest) => some (w :: taken, rest)
    | none => none

/-- R62: the value of `OP` alone selects the command; `0x00` and `0x07`..`0xff` select none. -/
def selectCommand (op arg : Octet) (payload : List Word) : Option Instr :=
  if op = 0x01#8 then some (.seed arg payload)
  else if op = 0x02#8 then some (.next arg payload)
  else if op = 0x03#8 then some (.reconstruct arg payload)
  else if op = 0x04#8 then some (.temper arg payload)
  else if op = 0x05#8 then some (.untemper arg payload)
  else if op = 0x06#8 then some (.twist arg payload)
  else none

/-- R65: read `H`, take `LEN` words as payload, look `OP` up. The checks of R156 beyond the first are the command's. -/
def decode : List Word → Decoded
  | [] => .incomplete
  | h :: ws =>
    match takeWords (headerLen h) ws with
    | none => .incomplete
    | some (payload, rest) =>
      match selectCommand (headerOp h) (headerArg h) payload with
      | some i => .command i rest
      | none => .unknownOp (headerOp h) rest

/-- R62: the operation code of each command. -/
def Instr.op : Instr → Octet
  | .seed _ _ => 0x01#8
  | .next _ _ => 0x02#8
  | .reconstruct _ _ => 0x03#8
  | .temper _ _ => 0x04#8
  | .untemper _ _ => 0x05#8
  | .twist _ _ => 0x06#8

/-- R60: a header from its three fields. -/
def makeHeader (op arg : Octet) (len : Nat) : Word := (op ++ arg ++ BitVec.ofNat 16 len : BitVec (8 + 8 + 16))

/-- R60, R62: the words of a command's packet, header first. -/
def encode (i : Instr) : List Word := makeHeader i.op i.arg i.payload.length :: i.payload

/-- The first `n` words of a number written least significant word first. -/
def tablePayload : Nat → Nat → List Word
  | 0, _ => []
  | n + 1, v => BitVec.ofNat 32 v :: tablePayload n (v >>> 32)

/-- The packet of an opcode-table row: its first word is the header, and as many payload words follow as the header
announces, every bit above `nbits` being 0. -/
def tablePacket (nbits w : Nat) : List Word :=
  BitVec.ofNat 32 (w % 2 ^ nbits) ::
    tablePayload (headerLen (BitVec.ofNat 32 (w % 2 ^ nbits))) ((w % 2 ^ nbits) >>> 32)

/-- The command the decoder reads from an opcode-table word. -/
def decodeTableWord (nbits w : Nat) : Option Instr :=
  match decode (tablePacket nbits w) with
  | .command i _ => some i
  | .unknownOp _ _ => none
  | .incomplete => none

end Sys2Proof
end

