-- ==== Sys2Proof/Machine/Params.lean ====
section
/-! DEFINITION. The parameters of the algorithm, spec/00_scope.md R7 (W = 32 and N = 624 stand in the types of Config). -/

namespace Sys2Proof.Machine

/-- R7 `M`: word k is combined with word (k + 397) mod 624. -/
def twistOffset : Nat := 397

/-- R7 `A`: XORed in when y is odd. -/
def twistConstant : Word := 0x9908b0df#32

/-- R7 `UPPER`: the most significant bit. -/
def upperMask : Word := 0x80000000#32

/-- R7 `LOWER`: the 31 least significant bits. -/
def lowerMask : Word := 0x7fffffff#32

/-- R7 `F`: the seeding multiplier. -/
def seedMultiplier : Word := 0x6c078965#32

/-- R7: the right shift of the seeding recurrence. -/
def seedShift : Nat := 30

/-- R7 `u`. -/
def temperU : Nat := 11

/-- R7 `s`. -/
def temperS : Nat := 7

/-- R7 `b`. -/
def temperB : Word := 0x9d2c5680#32

/-- R7 `t`. -/
def temperT : Nat := 15

/-- R7 `c`. -/
def temperC : Word := 0xefc60000#32

/-- R7 `l`. -/
def temperL : Nat := 18

/-- R7: the seed used when none is given; R180: the seed of the reset state. -/
def defaultSeed : Word := 0#32

/-- R7, R141: the one width an output may be requested with. -/
def outputWidth : Octet := 32#8

end Sys2Proof.Machine
end

