-- ==== Sys2Proof/Machine/Storage.lean ====
section
/-! DEFINITION. The primitives of the spec's pseudocode (spec/00_scope.md R11): the two `for` loops, reading and writing
one word of `MT`, reading and writing one bit of a word. Every access to `MT` goes through `readWord` and `writeWord`
(spec/20_memory.md R40, R44: one whole 32-bit word). -/

namespace Sys2Proof.Machine

/-- R11 `for k in 0..n-1`: the body runs on 0, 1, .., n-1 in increasing order. -/
def forUp {N : Nat} {α : Type} (body : Fin N → α → α) : (n : Nat) → n ≤ N → α → α
  | 0, _, a => a
  | n + 1, h, a => body ⟨n, h⟩ (forUp body n (Nat.le_of_succ_le h) a)

/-- R11 `for k in n-1 downto 0`: the body runs on n-1, n-2, .., 0 in decreasing order. -/
def forDown {N : Nat} {α : Type} (body : Fin N → α → α) : (n : Nat) → n ≤ N → α → α
  | 0, _, a => a
  | n + 1, h, a => forDown body n (Nat.le_of_succ_le h) (body ⟨n, h⟩ a)

/-- R11: `MT[k]`. -/
def readWord (mt : MT) (k : Index) : Word := mt[k]

/-- R11: `MT[k] <- v`. -/
def writeWord (mt : MT) (k : Index) (v : Word) : MT := mt.set k v

/-- R41: the index `(k + d) mod 624`. -/
def indexPlus (k : Index) (d : Nat) : Index := ⟨(k.val + d) % 624, Nat.mod_lt _ (by decide)⟩

/-- R9: `x[i]`. -/
def readBit (x : Word) (i : Nat) : Bool := x.getLsbD i

/-- R122, R123: `x[i] <- b`. -/
def writeBit (x : Word) (i : Nat) (b : Bool) : Word :=
  (x &&& ~~~(1#32 <<< i)) ||| (if b then 1#32 <<< i else 0#32)

end Sys2Proof.Machine
end

