-- ==== Sys2Proof/Machine/Transform.lean ====
section
/-! DEFINITION. The Transform Engine (spec/00_scope.md R2): tempering (spec/42_temper.md R111) and its inverse
(spec/43_untemper.md R121 to R123), pure functions of one word. -/

namespace Sys2Proof.Machine

/-- R111, `n1`. -/
def temperStep1 (x : Word) : Word := x ^^^ (x >>> temperU)

/-- R111, `n2`. -/
def temperStep2 (x : Word) : Word := x ^^^ ((x <<< temperS) &&& temperB)

/-- R111, `n3`. -/
def temperStep3 (x : Word) : Word := x ^^^ ((x <<< temperT) &&& temperC)

/-- R111, `n4`. -/
def temperStep4 (x : Word) : Word := x ^^^ (x >>> temperL)

/-- R111: the four steps in this order, each on the result of the one before. -/
def temper (x : Word) : Word := temperStep4 (temperStep3 (temperStep2 (temperStep1 x)))

/-- R122, the loop body: bit `i` of the word being recovered from `y`. -/
def invRightBit (y : Word) (s : Nat) (i : Fin 32) (x : Word) : Word :=
  writeBit x i (if i.val + s ≤ 31 then readBit y i ^^ readBit x (i.val + s) else readBit y i)

/-- R122: the word `x` with `x ^ (x >> s) = y`, recovered from bit 31 downward. The start value 0 is never read: bit
`i + s` is written before bit `i` is (log entry 3). -/
def invRight (y : Word) (s : Nat) : Word := forDown (invRightBit y s) 32 (Nat.le_refl 32) 0#32

/-- R123, the loop body: bit `i` of the word being recovered from `y`. -/
def invLeftBit (y : Word) (s : Nat) (m : Word) (i : Fin 32) (x : Word) : Word :=
  writeBit x i (if s ≤ i.val then readBit y i ^^ (readBit x (i.val - s) && readBit m i) else readBit y i)

/-- R123: the word `x` with `x ^ ((x << s) & m) = y`, recovered from bit 0 upward; the start value 0 is never read
(log entry 3). -/
def invLeft (y : Word) (s : Nat) (m : Word) : Word := forUp (invLeftBit y s m) 32 (Nat.le_refl 32) 0#32

/-- R121: the four steps of `temper` undone in reverse order. -/
def untemper (y : Word) : Word :=
  invRight (invLeft (invLeft (invRight y temperL) temperT temperC) temperS temperB) temperU

end Sys2Proof.Machine
end

