-- ==== Sys2Proof/Machine/Recurrence.lean ====
section
/-! DEFINITION. The three ways the array is filled: seeding (spec/40_seed.md R90, R91), the twist (spec/41_twist.md R100,
R101) and reconstruction (spec/44_reconstruct.md R130), each as the in-place loop of the spec's pseudocode. The three
whole-array operations are irreducible so that no proof unrolls 624 passes by accident; their lemmas are in
Laws/Recurrence.lean and Laws/Evaluate.lean, and Lean's kernel evaluates them as they stand. -/

namespace Sys2Proof.Machine

/-- R90, R91: `(0x6c078965 * (prev ^ (prev >> 30)) + i) mod 2^32`. -/
def seedWord (prev : Word) (i : Nat) : Word :=
  seedMultiplier * (prev ^^^ (prev >>> seedShift)) + BitVec.ofNat 32 i

/-- R90, the loop body for the index `j + 1` in 1..623: `MT[j+1]` from the word written one iteration earlier. -/
def seedStep (j : Fin 623) (mt : MT) : MT :=
  writeWord mt j.succ (seedWord (readWord mt j.castSucc) (j.val + 1))

/-- R90: `MT[0] <- v`, then `MT[i]` for `i` in 1..623 in increasing order. -/
@[irreducible] def seedArray (v : Word) (mt : MT) : MT := forUp seedStep 623 (Nat.le_refl 623) (writeWord mt 0 v)

/-- R100, R101: `y`, bit 31 of `hi` above bits 30..0 of `lo`. -/
def joinBits (hi lo : Word) : Word := (hi &&& upperMask) ||| (lo &&& lowerMask)

/-- R101: the mixing function. -/
def mix (hi lo : Word) : Word :=
  (joinBits hi lo >>> 1) ^^^ (if readBit (joinBits hi lo) 0 then twistConstant else 0#32)

/-- R100, R101, step `k`: the three reads are of the array as it stands, then `MT[k]` is written. -/
def twistStep (k : Index) (mt : MT) : MT :=
  writeWord mt k (readWord mt (indexPlus k twistOffset) ^^^ mix (readWord mt k) (readWord mt (indexPlus k 1)))

/-- R100: all 624 words rewritten in place, in increasing index order (spec/90_conflicts.md C1). -/
@[irreducible] def twistArray (mt : MT) : MT := forUp twistStep 624 (Nat.le_refl 624) mt

/-- R130, the loop body: `MT[i] <- untemper(P[i])`. -/
def reconstructStep (observed : MT) (i : Index) (mt : MT) : MT := writeWord mt i (untemper (readWord observed i))

/-- R130: word i of the observed outputs, untempered, becomes state word i. -/
@[irreducible] def reconstructArray (observed : MT) (mt : MT) : MT := forUp (reconstructStep observed) 624 (Nat.le_refl 624) mt

end Sys2Proof.Machine
end

