-- ==== Sys2Proof/Machine/State.lean ====
section
/-! DEFINITION. The state of the block (spec/10_state.md), the two ends of its command port, why a step can stop, and
the state after reset (spec/70_reset_and_hazards.md R180). -/

namespace Sys2Proof.Machine

/-- What the environment presents to the block, in order: the words of command packets (spec/30_encoding.md R60, R67)
and the reset event (spec/70_reset_and_hazards.md R181). -/
inductive PortItem where
  /-- The next word of the command stream. -/
  | word (w : Word)
  /-- R181: reset, applied by the environment, not by a command. -/
  | reset
  deriving DecidableEq, Repr

/-- The four errors of spec/60_exceptions.md R150. -/
inductive CommandError where
  | invalidSeed
  | invalidReconstructionInput
  | unsupportedBitWidth
  | illegalCommand
  deriving DecidableEq, Repr

/-- The response to one command (spec/30_encoding.md R61): OK with no data word, OK with one, or an error. -/
inductive Response where
  | ok
  | okWord (v : Word)
  | error (e : CommandError)
  deriving DecidableEq, Repr

/-- `mt` and `idx` are the whole state of the block (spec/10_state.md R20, R23, R27 to R30). `cmdPort` and `respPort` are
the model's own record of the command port's two ends (log entry 1): what the host has presented and the block has
not yet taken, and every response word the block has sent, oldest first. -/
structure State where
  /-- R20: the state array. -/
  mt : MT
  /-- R23: the cursor. -/
  idx : Cursor
  /-- R67: what the host presents, the next item first. -/
  cmdPort : List PortItem
  /-- R61: the response stream, the oldest word first. -/
  respPort : List Word
  deriving DecidableEq, Repr

/-- Why the machine stops with a fault: never. spec/60_exceptions.md R157, R158: an error is a response and the block is at
once ready for the next packet, with no lock-up state; R41: no index is ever out of range. So there is no
constructor, and no step of this model ends in a fault. -/
inductive Fault where
  deriving DecidableEq, Repr

/-- Why there is no step. -/
inductive Refusal where
  /-- Raised by an arm of `exec` whose command has no meaning yet; none is left in this model. Safe: the model stops. -/
  | notModelled (mnemonic : String)
  /-- Raised by `step` when the host presents nothing: the block waits (R67). Safe: the model stops where the block
  would wait with its state unchanged. -/
  | noCommand
  /-- Raised by `step` when the words presented stop short of the `LEN` the header announces: "a model has no step for
  an incomplete packet" (R67; spec/93_implementation_defined.md U5). Safe: the model stops. -/
  | incompletePacket
  /-- Raised by `step` when a reset comes after some but not all words of a packet: not specified, reset is allowed
  only between commands (R181; spec/93_implementation_defined.md U6). Safe: the model stops. -/
  | resetInsidePacket
  deriving DecidableEq, Repr

/-- R180: reset leaves the state SEED with seed 0 leaves; nothing is presented and nothing has been answered. The zero
array is only where the seeding loop starts: all 624 words are overwritten. -/
def State.reset : State where
  mt := seedArray defaultSeed (Vector.replicate 624 0#32)
  idx := 624
  cmdPort := []
  respPort := []

end Sys2Proof.Machine
end

