-- ==== Sys2Proof/Machine/Flags.lean ====
section
/-! DEFINITION. The block has no flags, condition codes or predicates (spec/10_state.md R28): a command's outcome is carried
only by its response. This file holds that one report: the STATUS codes (spec/60_exceptions.md R150) and the response's
words (spec/30_encoding.md R61). -/

namespace Sys2Proof.Machine

/-- R150: the code of each error. -/
def errorCode : CommandError → Octet
  | .invalidSeed => 0x01#8
  | .invalidReconstructionInput => 0x02#8
  | .unsupportedBitWidth => 0x03#8
  | .illegalCommand => 0x04#8

/-- R61, R150: the `STATUS` field; 0 is OK. -/
def Response.status : Response → Octet
  | .ok => 0x00#8
  | .okWord _ => 0x00#8
  | .error e => errorCode e

/-- R61: the data words, `RLEN` of them. -/
def Response.data : Response → List Word
  | .ok => []
  | .okWord v => [v]
  | .error _ => []

/-- R61: `STATUS` in bits 31:24, zero in 23:16, `RLEN` in 15:0. -/
def responseHeader (status : Octet) (rlen : Nat) : Word :=
  (status ++ 0#8 ++ BitVec.ofNat 16 rlen : BitVec (8 + 8 + 16))

/-- R61: the response header followed by the data words. -/
def Response.words (r : Response) : List Word := responseHeader r.status r.data.length :: r.data

end Sys2Proof.Machine
end

