-- ==== Sys2Proof/Machine/Operands.lean ====
section
/-! DEFINITION. Operand assembly (spec/30_encoding.md R64): a payload word is used whole, with no extension, scaling or
shifting. Each form answers nothing where `LEN` is not one the command takes. -/

namespace Sys2Proof.Machine

/-- R64 (b), R92: the seed is the default seed when there is no payload and `P[0]` when there is one word; a payload of
two or more words is a seed wider than 32 bits, and no operand. -/
def seedOperand : List Word → Option Word
  | [] => some defaultSeed
  | [v] => some v
  | _ :: _ :: _ => none

/-- R64 (e): the one operand word of TEMPER and UNTEMPER. -/
def wordOperand : List Word → Option Word
  | [] => none
  | [x] => some x
  | _ :: _ :: _ => none

/-- R64 (d): the 624 observed outputs in packet order. -/
def observedOperand (payload : List Word) : Option MT :=
  if h : payload.length = 624 then some ⟨payload.toArray, by simpa using h⟩ else none

end Sys2Proof.Machine
end

