-- ==== Sys2Proof/Machine/Ops.lean ====
section
/-! DEFINITION. The shared operations on the state: answering, raising an error, loading a new generation, selecting the
next output word, reset, and the command port. -/

namespace Sys2Proof.Machine

/-- R61: the response's words are appended to the response stream. -/
def respond (r : Response) (s : State) : State := { s with respPort := s.respPort ++ r.words }

/-- R11 `respond OK`: the command ends with no data word. -/
def respondOk (s : State) : Host.Outcome State Fault Refusal := .next (respond .ok s)

/-- R11 `respond OK(v)`: the command ends with one data word. -/
def respondWord (v : Word) (s : State) : Host.Outcome State Fault Refusal := .next (respond (.okWord v) s)

/-- R11 `raise`, R153, R157: taking an error. There is no handler, no saved state and no mode: the whole effect is the
error's response, and `MT` and `IDX` are as they were before the command. There is no return from an error: the
next command is simply executed (R158). -/
def raise (e : CommandError) (s : State) : Host.Outcome State Fault Refusal := .next (respond (.error e) s)

/-- A whole new state: all of `MT`, and the cursor exhausted so that the next output request twists (R90, R130). -/
def loadArray (mt : MT) (s : State) : State := { s with mt := mt, idx := 624 }

/-- R100: `twist()`, all of `MT` rewritten and `IDX <- 0`. -/
def twist (s : State) : State := { s with mt := twistArray s.mt, idx := 0 }

/-- R140 `if IDX = 624 then twist()`: the array and the index, now in 0..623, that the output is selected from. -/
def readyArray (s : State) : MT × Index :=
  if h : s.idx.val < 624 then (s.mt, ⟨s.idx.val, h⟩) else (twistArray s.mt, 0)

/-- R140 `y <- MT[IDX]`: the selected word. -/
def selectedWord (s : State) : Word := readWord (readyArray s).1 (readyArray s).2

/-- R140 `IDX <- IDX + 1`, after any twist. -/
def advance (s : State) : State := { s with mt := (readyArray s).1, idx := (readyArray s).2.succ }

/-- R181: the reset event replaces (`MT`, `IDX`) by the values of R180 in one atomic step; it is no command and has no
response. -/
def resetBlock (s : State) : State := loadArray (seedArray defaultSeed s.mt) s

/-- The words presented before the next reset event, and what is presented after them. -/
def presentedWords : List PortItem → List Word × List PortItem
  | [] => ([], [])
  | .reset :: items => ([], .reset :: items)
  | .word w :: items => (w :: (presentedWords items).1, (presentedWords items).2)

/-- The packet has been taken: `rest` are the words after it, `after` what follows them (R65). -/
def takePacket (rest : List Word) (after : List PortItem) (s : State) : State :=
  { s with cmdPort := rest.map .word ++ after }

end Sys2Proof.Machine
end

