-- ==== Sys2Proof/Machine/Output.lean ====
section
/-! DEFINITION. NEXT (spec/45_output.md R140, R141). -/

namespace Sys2Proof.Machine

/-- R140: IllegalCommand if `LEN != 0`; UnsupportedBitWidth if `ARG != 32`, before any twist (spec/90_conflicts.md C7);
else twist if the cursor is 624, select `MT[IDX]`, advance the cursor, and answer the tempered word. -/
def execNext (arg : Octet) (payload : List Word) (s : State) : Host.Outcome State Fault Refusal :=
  if payload.length ≠ 0 then raise .illegalCommand s
  else if arg ≠ outputWidth then raise .unsupportedBitWidth s
  else respondWord (temper (selectedWord s)) (advance s)

end Sys2Proof.Machine
end

