-- ==== Sys2Proof/Machine/Reconstruct.lean ====
section
/-! DEFINITION. RECONSTRUCT (spec/44_reconstruct.md R130, R131). -/

namespace Sys2Proof.Machine

/-- R130, R131: IllegalCommand if `ARG != 0`; InvalidReconstructionInput if `LEN != 624`, before any word is written; else
`MT[i] <- untemper(P[i])` for all i, and the cursor is 624. The payload's values are never checked (R133). -/
def execReconstruct (arg : Octet) (payload : List Word) (s : State) : Host.Outcome State Fault Refusal :=
  if arg ≠ 0#8 then raise .illegalCommand s
  else
    match observedOperand payload with
    | none => raise .invalidReconstructionInput s
    | some observed => respondOk (loadArray (reconstructArray observed s.mt) s)

end Sys2Proof.Machine
end

