-- ==== Sys2Proof/Machine/Seed.lean ====
section
/-! DEFINITION. SEED (spec/40_seed.md R90, R92). -/

namespace Sys2Proof.Machine

/-- R90: IllegalCommand if `ARG != 0`; InvalidSeed if `LEN >= 2` (R92: refused, never reduced); else the whole state is
the expansion of the seed. -/
def execSeed (arg : Octet) (payload : List Word) (s : State) : Host.Outcome State Fault Refusal :=
  if arg ≠ 0#8 then raise .illegalCommand s
  else
    match seedOperand payload with
    | none => raise .invalidSeed s
    | some v => respondOk (loadArray (seedArray v s.mt) s)

end Sys2Proof.Machine
end

