-- ==== Sys2Proof/Machine/Temper.lean ====
section
/-! DEFINITION. TEMPER (spec/42_temper.md R110). -/

namespace Sys2Proof.Machine

/-- R110: IllegalCommand if `ARG != 0` or `LEN != 1`; else answer `temper(P[0])`; the state is not touched. -/
def execTemper (arg : Octet) (payload : List Word) (s : State) : Host.Outcome State Fault Refusal :=
  if arg ≠ 0#8 then raise .illegalCommand s
  else
    match wordOperand payload with
    | none => raise .illegalCommand s
    | some x => respondWord (temper x) s

end Sys2Proof.Machine
end

