-- ==== Sys2Proof/Machine/Twist.lean ====
section
/-! DEFINITION. TWIST (spec/41_twist.md R104). -/

namespace Sys2Proof.Machine

/-- R104: IllegalCommand if `ARG != 0` or `LEN != 0`; else one twist now, whatever the cursor is. -/
def execTwist (arg : Octet) (payload : List Word) (s : State) : Host.Outcome State Fault Refusal :=
  if arg ≠ 0#8 ∨ payload.length ≠ 0 then raise .illegalCommand s
  else respondOk (twist s)

end Sys2Proof.Machine
end

