-- ==== Sys2Proof/Machine/Untemper.lean ====
section
/-! DEFINITION. UNTEMPER (spec/43_untemper.md R120). -/

namespace Sys2Proof.Machine

/-- R120: IllegalCommand if `ARG != 0` or `LEN != 1`; else answer `untemper(P[0])`; the state is not touched. -/
def execUntemper (arg : Octet) (payload : List Word) (s : State) : Host.Outcome State Fault Refusal :=
  if arg ≠ 0#8 then raise .illegalCommand s
  else
    match wordOperand payload with
    | none => raise .illegalCommand s
    | some y => respondWord (untemper y) s

end Sys2Proof.Machine
end

