-- ==== Sys2Proof/Machine/Dispatch.lean ====
section
/-! DEFINITION. The dispatch of the six commands to their meanings (spec/30_encoding.md R62). -/

namespace Sys2Proof.Machine

def exec (i : Instr) (s : State) : Host.Outcome State Fault Refusal :=
  match i with
  | .seed arg payload => Sys2Proof.Machine.execSeed arg payload s
  | .next arg payload => Sys2Proof.Machine.execNext arg payload s
  | .reconstruct arg payload => Sys2Proof.Machine.execReconstruct arg payload s
  | .temper arg payload => Sys2Proof.Machine.execTemper arg payload s
  | .untemper arg payload => Sys2Proof.Machine.execUntemper arg payload s
  | .twist arg payload => Sys2Proof.Machine.execTwist arg payload s

end Sys2Proof.Machine
end

