-- ==== Sys2Proof/Machine/Step.lean ====
section
/-! DEFINITION. One step: one whole command, or one reset, taken from the command port (spec/00_scope.md R6,
spec/30_encoding.md R65, R67, spec/70_reset_and_hazards.md R181). The block has no program counter and fetches nothing
(spec/10_state.md R27): the next command is the next packet the host presents. -/

namespace Sys2Proof.Machine

/-- R65: decode the words presented; an unknown `OP` raises IllegalCommand (R156, check 1), its payload consumed with it;
a command is executed on the state whose packet has been taken. -/
def stepPacket (s : State) : Host.Outcome State Fault Refusal :=
  match decode (presentedWords s.cmdPort).1 with
  | .command i rest => exec i (takePacket rest (presentedWords s.cmdPort).2 s)
  | .unknownOp _ rest => raise .illegalCommand (takePacket rest (presentedWords s.cmdPort).2 s)
  | .incomplete =>
    match (presentedWords s.cmdPort).2 with
    | [] => .refused .incompletePacket
    | _ :: _ => .refused .resetInsidePacket

/-- One step of the block. -/
def step (s : State) : Host.Outcome State Fault Refusal :=
  match s.cmdPort with
  | [] => .refused .noCommand
  | .reset :: items => .next (resetBlock { s with cmdPort := items })
  | .word _ :: _ => stepPacket s

/-- The host presents the packet of an opcode-table word as the next one: it stands before whatever is presented. -/
def State.withFetchWord (s : State) (nbits w : Nat) : State :=
  { s with cmdPort := (tablePacket nbits w).map .word ++ s.cmdPort }

end Sys2Proof.Machine
end

