-- ==== Sys2Proof/Machine/HostSide.lean ====
section
/-! DEFINITION. What the spec gives of the host's side of the command port: the assembler's packets and the written form
of a response (spec/30_encoding.md R70, with the names of spec/60_exceptions.md R150), the two host macros (R71) and the
double-precision adapter `next_f64` (spec/45_output.md R145). None of it is logic of the block (spec/00_scope.md R5 f,
log entry 10); no step of the machine calls it. -/

namespace Sys2Proof.Machine

/-- R70: one line of the assembler. -/
inductive Asm where
  /-- `SEED` -/
  | seedDefault
  /-- `SEED v` -/
  | seed (v : Word)
  /-- `NEXT` -/
  | next
  /-- `NEXT k` -/
  | nextWidth (k : Octet)
  /-- `RECONSTRUCT w0, w1, .., w(n-1)` -/
  | reconstruct (ws : List Word)
  /-- `TEMPER x` -/
  | temper (x : Word)
  /-- `UNTEMPER y` -/
  | untemper (y : Word)
  /-- `TWIST` -/
  | twist
  /-- `.packet h, p0, p1, ..` -/
  | packet (h : Word) (ps : List Word)
  deriving DecidableEq, Repr

/-- R70: the header and payload each line stands for. -/
def Asm.words : Asm → List Word
  | .seedDefault => [0x01000000#32]
  | .seed v => [0x01000001#32, v]
  | .next => [0x02200000#32]
  | .nextWidth k => [0x02000000#32 + (k.setWidth 32 <<< 16)]
  | .reconstruct ws => (0x03000000#32 + BitVec.ofNat 32 ws.length) :: ws
  | .temper x => [0x04000001#32, x]
  | .untemper y => [0x05000001#32, y]
  | .twist => [0x06000000#32]
  | .packet h ps => h :: ps

/-- The command a line stands for; `.packet` may spell no command (R66 a). -/
def Asm.command : Asm → Option Instr
  | .seedDefault => some (.seed 0#8 [])
  | .seed v => some (.seed 0#8 [v])
  | .next => some (.next 32#8 [])
  | .nextWidth k => some (.next k [])
  | .reconstruct ws => some (.reconstruct 0#8 ws)
  | .temper x => some (.temper 0#8 [x])
  | .untemper y => some (.untemper 0#8 [y])
  | .twist => some (.twist 0#8 [])
  | .packet h ps => selectCommand (headerOp h) (headerArg h) ps

/-- R150: the name of each error. -/
def errorName : CommandError → String
  | .invalidSeed => "InvalidSeed"
  | .invalidReconstructionInput => "InvalidReconstructionInput"
  | .unsupportedBitWidth => "UnsupportedBitWidth"
  | .illegalCommand => "IllegalCommand"

/-- R70: how a response is written: `OK`, `OK v` (here `v` in hexadecimal) or `ERR <name>`. -/
def Response.text : Response → String
  | .ok => "OK"
  | .okWord v => "OK 0x" ++ String.ofList (Nat.toDigits 16 v.toNat)
  | .error e => "ERR " ++ errorName e

/-- R140, R144: the legal output request, `next_u32`. -/
def next32 : Instr := .next 32#8 []

/-- R71: the macro `NEXT_F64` issues two NEXTs. -/
def nextF64Commands : List Instr := [next32, next32]

/-- R71: the macro `CLONE` issues 624 NEXTs to the source generator. -/
def cloneCapture : List Instr := List.replicate 624 next32

/-- R71, R132: and then gives the 624 results in order to RECONSTRUCT. -/
def cloneLoad (outputs : List Word) : Instr := .reconstruct 0#8 outputs

/-- R145: `m = (draw1 >> 5) * 2^26 + (draw2 >> 6)`. -/
def f64Mantissa (draw1 draw2 : Word) : Nat := (draw1 >>> 5).toNat * 2 ^ 26 + (draw2 >>> 6).toNat

/-- R145: the value of `next_f64`, the rational number `m / 2^53`. -/
def f64Value (draw1 draw2 : Word) : ℚ := (f64Mantissa draw1 draw2 : ℚ) / 2 ^ 53

end Sys2Proof.Machine
end

