-- ==== Sys2Proof/Safety.lean ====
section
/-! DEFINITION. The terms claims are made in: running a list of commands, what it means that a command was answered, the
well-formedness of the response stream, and the sequence of state words behind successive generations. -/

namespace Sys2Proof.Machine

/-- The commands of a list executed one after the other (R47: each reads the state exactly as the one before left it),
stopping at the first that gives no next state. -/
def execAll : List Instr → State → Host.Outcome State Fault Refusal
  | [], s => .next s
  | i :: is, s =>
    match exec i s with
    | .next t => execAll is t
    | .fault r => .fault r
    | .refused r => .refused r

/-- The block goes on: a step gives a next state. -/
def Safe (s : State) : Prop := ∃ t, step s = .next t

/-- R30: two states with equal `MT` and equal `IDX` are the same state of the block. -/
def SameBlock (s t : State) : Prop := s.mt = t.mt ∧ s.idx = t.idx

/-- R61: the words of the responses to successful output requests, in order. -/
def outputResponses (outputs : List Word) : List Word := outputs.flatMap fun w => (Response.okWord w).words

/-- R61: a stream of response words is a concatenation of whole responses. -/
def ResponseStream (ws : List Word) : Prop := ∃ rs : List Response, ws = rs.flatMap Response.words

/-- R105: a sequence of words that obeys the recurrence of the twist at every position. -/
def TwistSequence (x : Nat → Word) : Prop := ∀ n, x (n + 624) = x (n + 397) ^^^ mix (x n) (x (n + 1))

/-- R105: the array of the 624 consecutive terms that begin at `w`. -/
def window (x : Nat → Word) (w : Nat) : MT := Vector.ofFn fun i => x (w + i.val)

/-- R142: the array after `j` twists of `mt`. -/
def generation (mt : MT) : Nat → MT
  | 0 => mt
  | j + 1 => twistArray (generation mt j)

/-- R103 b: the bitwise XOR of two arrays. -/
def xorArray (a b : MT) : MT := Vector.zipWith (· ^^^ ·) a b

/-- R103 b: the all-zero array. -/
def zeroArray : MT := Vector.replicate 624 0#32

/-- R125: `n` passes of `x <- y ^ (x >> s)`, starting from `y`. -/
def iterRight (y : Word) (s : Nat) : Nat → Word
  | 0 => y
  | n + 1 => y ^^^ (iterRight y s n >>> s)

/-- R125: `n` passes of `x <- y ^ ((x << s) & m)`, starting from `y`. -/
def iterLeft (y : Word) (s : Nat) (m : Word) : Nat → Word
  | 0 => y
  | n + 1 => y ^^^ ((iterLeft y s m n <<< s) &&& m)

/-- R114, R127: the XOR of the listed bits of a word. -/
def xorBits (x : Word) (bits : List Nat) : Bool := bits.foldl (fun b j => b ^^ x.getLsbD j) false

/-- R114: for each output bit 0..31 of `temper(x)`, the input bits it is the XOR of, as the spec's table lists them. -/
def temperInputs : List (List Nat) :=
  [[0, 3, 14, 18, 22, 29],
   [1, 19, 23, 30],
   [2, 13, 20, 31],
   [3, 21, 25],
   [0, 4, 7, 11, 15, 18, 22],
   [5, 8, 16, 19, 23],
   [2, 6, 9, 13, 20, 24, 28],
   [0, 3, 7, 10, 11, 14, 18, 21, 25]] ++
  [[8, 11, 22, 26, 30],
   [2, 5, 9, 12, 13, 16, 23, 27, 31],
   [3, 10, 14, 28],
   [7, 11, 14, 18, 22, 25, 29],
   [5, 12, 15, 16, 23, 26, 30],
   [13, 16, 27, 31],
   [7, 14, 18, 25],
   [15, 26]] ++
  [[16, 27],
   [2, 13, 17, 28],
   [3, 11, 14, 18, 22, 29],
   [12, 19, 23, 30],
   [20, 31],
   [14, 21, 25],
   [0, 7, 11, 18, 22],
   [8, 19, 23]] ++
  [[2, 9, 13, 17, 20, 24, 28],
   [3, 10, 14, 21, 25],
   [11, 19, 22, 26, 30],
   [5, 12, 16, 20, 23, 27, 31],
   [21, 28],
   [7, 14, 18, 25, 29],
   [15, 26, 30],
   [16, 24, 27, 31]]

/-- R114: `temper(1 << j)` for j = 0..31, as the spec's table lists them. -/
def temperColumns : List Word :=
  [0x00400091#32, 0x00000002#32, 0x01020244#32, 0x02040489#32,
   0x00000010#32, 0x08001220#32, 0x00000040#32, 0x20404890#32] ++
  [0x00800120#32, 0x01000240#32, 0x02000480#32, 0x04440990#32,
   0x08081200#32, 0x01022244#32, 0x22244c81#32, 0x40009010#32] ++
  [0x88013220#32, 0x01020000#32, 0x20444891#32, 0x04880022#32,
   0x09100044#32, 0x12200088#32, 0x04440911#32, 0x08881222#32] ++
  [0x81000040#32, 0x22204888#32, 0x44009100#32, 0x88012200#32,
   0x11020440#32, 0x20040801#32, 0x44081102#32, 0x88102204#32]

/-- R127: for each output bit 0..31 of `untemper(y)`, the input bits it is the XOR of, as the spec's table lists them. -/
def untemperInputs : List (List Nat) :=
  [[0, 7, 11, 18, 22, 25, 29],
   [1, 5, 8, 12, 19, 26, 30],
   [9, 13, 17, 24, 27, 31],
   [0, 3, 7, 10, 14, 18, 21, 28],
   [4, 5, 11, 12, 15, 19, 22, 23, 26, 29, 30],
   [5, 12, 16, 20, 23, 27, 30],
   [0, 2, 6, 7, 14, 17, 18, 20, 21, 24, 25, 28],
   [0, 3, 7, 11, 14, 21, 25]] ++
  [[5, 8, 12, 15, 19, 23, 26],
   [16, 17, 20, 24, 31],
   [0, 3, 7, 10, 14, 18, 25, 28],
   [7, 11, 22, 25, 29],
   [5, 8, 12, 26, 30],
   [2, 9, 13, 17, 20, 24, 27, 31],
   [0, 7, 10, 14, 18, 28],
   [5, 11, 12, 15, 19, 23, 26, 29, 30]] ++
  [[12, 16, 20, 27, 30],
   [0, 2, 7, 14, 17, 18, 20, 21, 25, 28],
   [3, 11, 14, 18, 21],
   [5, 12, 15, 19, 23],
   [2, 9, 16, 17, 24, 27, 31],
   [0, 7, 14, 18, 21, 25],
   [7, 22, 25],
   [8, 23, 26]] ++
  [[2, 9, 17, 20, 24, 27],
   [10, 25, 28],
   [5, 11, 12, 19, 23, 26, 29, 30],
   [12, 20, 27, 30],
   [0, 7, 14, 18, 21, 25, 28],
   [14, 29],
   [15, 30],
   [2, 9, 16, 17, 20, 24, 27, 31]]

/-- R127: `untemper(1 << j)` for j = 0..31, as the spec's table lists them. -/
def untemperColumns : List Word :=
  [0x102244c9#32, 0x00000002#32, 0x81122040#32, 0x00040488#32,
   0x00000010#32, 0x04089132#32, 0x00000040#32, 0x10624cc9#32] ++
  [0x00801102#32, 0x81102004#32, 0x02004408#32, 0x04048891#32,
   0x0c099132#32, 0x00002004#32, 0x302644c8#32, 0x40088110#32] ++
  [0x80110220#32, 0x81122244#32, 0x10264449#32, 0x04088112#32,
   0x89032260#32, 0x102600c8#32, 0x00400811#32, 0x04888130#32] ++
  [0x81102244#32, 0x12620cc1#32, 0x04809112#32, 0x89112024#32,
   0x12024448#32, 0x24008811#32, 0x4c019032#32, 0x80102204#32]

end Sys2Proof.Machine
end

