-- ==== Sys2Proof/Certificates/Slice0/Obligations.lean ====
section
/-! DEFINITION. The statements for the provers. Each docstring names the rule of spec/ it formalises. `cmdPort` and
`respPort` are the model's record of the two ends of the command port (log entry 1): a command's response appears as
the words it appends to `respPort`. Where a statement lets anything be presented after a packet, the case of a host that
waits for the response (log entry 11) is that nothing is. -/

open Sys2Proof Sys2Proof.Machine

/-! ## The command port and the encoding -/

/-- R65, R67, R27: when the packet of a well-formed command is next on the port, one step executes that command on the
state whose packet has been taken, whatever is presented after it. -/
def Obligations.StepExecutesTheNextPacket : Prop :=
  ∀ (s : State) (i : Instr) (after : List PortItem), i.wellFormed = true →
    s.cmdPort = (encode i).map .word ++ after →
    step s = exec i { s with cmdPort := after }

/-- R60, R62, R70: the headers of the spec's tables, written out as words, decode to the commands they stand for. -/
def Obligations.WrittenOutPacketsDecode : Prop :=
  decode [0x01000000#32] = .command (.seed 0#8 []) [] ∧
  decode [0x01000001#32, 0xdeadbeef#32] = .command (.seed 0#8 [0xdeadbeef#32]) [] ∧
  decode [0x01010002#32, 1#32, 2#32] = .command (.seed 1#8 [1#32, 2#32]) [] ∧
  decode [0x02200000#32] = .command (.next 32#8 []) [] ∧
  decode [0x02100001#32, 0#32, 0x06000000#32] = .command (.next 16#8 [0#32]) [0x06000000#32] ∧
  decode (0x03000002#32 :: [5#32, 6#32]) = .command (.reconstruct 0#8 [5#32, 6#32]) [] ∧
  decode [0x04000001#32, 0x12345678#32] = .command (.temper 0#8 [0x12345678#32]) [] ∧
  decode [0x05000001#32, 0xffffffff#32] = .command (.untemper 0#8 [0xffffffff#32]) [] ∧
  decode [0x06000000#32] = .command (.twist 0#8 []) [] ∧
  decode [0x00000000#32] = .unknownOp 0x00#8 [] ∧
  decode [0x07000000#32] = .unknownOp 0x07#8 [] ∧
  decode [0xff000000#32] = .unknownOp 0xff#8 []

/-- R60, R62: the packet of every well-formed command, whatever its `ARG` and payload and whatever words follow it, decodes
to that command and leaves exactly those words. -/
def Obligations.DecodeOfEncodeIsTheCommand : Prop :=
  ∀ (i : Instr) (rest : List Word), i.wellFormed = true → decode (encode i ++ rest) = .command i rest

/-- R60, R65: whatever decodes to a command is that command's packet followed by the words left over, and the command is
well formed: each packet has one meaning. -/
def Obligations.DecodedCommandIsItsOwnPacket : Prop :=
  ∀ (ws rest : List Word) (i : Instr), decode ws = .command i rest →
    i.wellFormed = true ∧ ws = encode i ++ rest

/-- R65: every header with the `LEN` words it announces decodes, to one of the six commands (whose packet it is) or to an
unknown `OP`, never to both, and in every case exactly the `LEN` payload words are consumed with it. -/
def Obligations.DecodingIsTotalOnWholePackets : Prop :=
  ∀ (h : Word) (payload rest : List Word), payload.length = headerLen h →
    if 1 ≤ (headerOp h).toNat ∧ (headerOp h).toNat ≤ 6 then
      ∃ i : Instr, decode (h :: payload ++ rest) = .command i rest ∧ encode i = h :: payload ∧
        i.op = headerOp h ∧ i.arg = headerArg h ∧ i.payload = payload
    else decode (h :: payload ++ rest) = .unknownOp (headerOp h) rest

/-- R67, R181 (the names of the three refusals are the model's, log entry 2): the model has no step when nothing is
presented, when the words presented stop short of the packet the header announces, and when a reset is presented
inside a packet. -/
def Obligations.NoStepWithoutAWholePacket : Prop :=
  (∀ s : State, s.cmdPort = [] → step s = .refused .noCommand) ∧
  (∀ (s : State) (h : Word) (ws : List Word), ws.length < headerLen h →
    s.cmdPort = (h :: ws).map .word → step s = .refused .incompletePacket) ∧
  (∀ (s : State) (h : Word) (ws : List Word) (items : List PortItem), ws.length < headerLen h →
    s.cmdPort = (h :: ws).map .word ++ .reset :: items → step s = .refused .resetInsidePacket)

/-- R158, R188, R65: in every state, every whole packet (legal or not, known `OP` or not) is taken from the port and
answered with exactly one response: no lock-up state, no hang. -/
def Obligations.EveryWholePacketIsTakenAndAnswered : Prop :=
  ∀ (s : State) (h : Word) (payload : List Word) (after : List PortItem), payload.length = headerLen h →
    s.cmdPort = (h :: payload).map .word ++ after →
    ∃ (t : State) (r : Response), step s = .next t ∧ t.cmdPort = after ∧ t.respPort = s.respPort ++ r.words

/-! ## Responses and errors -/

/-- R61: every command produces exactly one response, whose header is one of the six possible ones, with `S[23:16]` zero
and `RLEN` the number of data words; there is one data word exactly when the status is OK and the command is NEXT,
TEMPER or UNTEMPER, and none otherwise. -/
def Obligations.ResponseHasTheShapeOfItsStatus : Prop :=
  ∀ (i : Instr) (s : State), ∃ (t : State) (h : Word) (data : List Word),
    exec i s = .next t ∧ t.cmdPort = s.cmdPort ∧ t.respPort = s.respPort ++ h :: data ∧
    h ∈ [0x00000000#32, 0x00000001#32, 0x01000000#32, 0x02000000#32, 0x03000000#32, 0x04000000#32] ∧
    h.extractLsb' 16 8 = 0#8 ∧
    (h.extractLsb' 0 16).toNat = data.length ∧ data.length ≤ 1 ∧
    (data.length = 1 ↔
      h.extractLsb' 24 8 = 0#8 ∧
        match i with
        | .next _ _ | .temper _ _ | .untemper _ _ => True
        | .seed _ _ | .reconstruct _ _ | .twist _ _ => False)

/-- R156, R154: the order of the checks, on the port. The first check that fails decides the response: unknown `OP`, then
the command's IllegalCommand conditions, then the command's one own error. The whole packet is consumed, the response
is the error's header with no data word (R61, R150), and nothing else of the state changes (R153). A packet that fails no
check is answered OK. The statement lets anything be presented after the packet: a port that holds more is the
model's choice (log entry 11), and the spec's case is `after = []`. -/
def Obligations.ErrorsFollowTheOrderOfChecks : Prop :=
  (∀ (s : State) (h : Word) (payload : List Word) (after : List PortItem), payload.length = headerLen h →
    (headerOp h).toNat = 0 ∨ 7 ≤ (headerOp h).toNat → s.cmdPort = (h :: payload).map .word ++ after →
    step s = .next { s with cmdPort := after, respPort := s.respPort ++ [0x04000000#32] }) ∧
  (∀ (s : State) (i : Instr) (after : List PortItem), i.wellFormed = true →
    s.cmdPort = (encode i).map .word ++ after →
    match i with
    | .seed arg p =>
      (arg ≠ 0#8 → step s = .next { s with cmdPort := after, respPort := s.respPort ++ [0x04000000#32] }) ∧
      (arg = 0#8 ∧ 2 ≤ p.length →
        step s = .next { s with cmdPort := after, respPort := s.respPort ++ [0x01000000#32] }) ∧
      (arg = 0#8 ∧ p.length ≤ 1 → ∃ t, step s = .next t ∧ t.respPort = s.respPort ++ [0x00000000#32])
    | .next arg p =>
      (p.length ≠ 0 → step s = .next { s with cmdPort := after, respPort := s.respPort ++ [0x04000000#32] }) ∧
      (p.length = 0 ∧ arg ≠ 32#8 →
        step s = .next { s with cmdPort := after, respPort := s.respPort ++ [0x03000000#32] }) ∧
      (p.length = 0 ∧ arg = 32#8 → ∃ t w, step s = .next t ∧ t.respPort = s.respPort ++ [0x00000001#32, w])
    | .reconstruct arg p =>
      (arg ≠ 0#8 → step s = .next { s with cmdPort := after, respPort := s.respPort ++ [0x04000000#32] }) ∧
      (arg = 0#8 ∧ p.length ≠ 624 →
        step s = .next { s with cmdPort := after, respPort := s.respPort ++ [0x02000000#32] }) ∧
      (arg = 0#8 ∧ p.length = 624 → ∃ t, step s = .next t ∧ t.respPort = s.respPort ++ [0x00000000#32])
    | .temper arg p =>
      (arg ≠ 0#8 ∨ p.length ≠ 1 →
        step s = .next { s with cmdPort := after, respPort := s.respPort ++ [0x04000000#32] }) ∧
      (arg = 0#8 ∧ p.length = 1 → ∃ t w, step s = .next t ∧ t.respPort = s.respPort ++ [0x00000001#32, w])
    | .untemper arg p =>
      (arg ≠ 0#8 ∨ p.length ≠ 1 →
        step s = .next { s with cmdPort := after, respPort := s.respPort ++ [0x04000000#32] }) ∧
      (arg = 0#8 ∧ p.length = 1 → ∃ t w, step s = .next t ∧ t.respPort = s.respPort ++ [0x00000001#32, w])
    | .twist arg p =>
      (arg ≠ 0#8 ∨ p.length ≠ 0 →
        step s = .next { s with cmdPort := after, respPort := s.respPort ++ [0x04000000#32] }) ∧
      (arg = 0#8 ∧ p.length = 0 → ∃ t, step s = .next t ∧ t.respPort = s.respPort ++ [0x00000000#32]))

/-- R63, R153: a command is answered with an error exactly when its packet is not legal, and then `MT`, `IDX` and the
port are what they were and the response is one header, STATUS 1 to 4. A legal command is answered OK. -/
def Obligations.IllegalCommandsChangeNothing : Prop :=
  ∀ (i : Instr) (s : State),
    if i.legal = true then
      ∃ (t : State) (h : Word) (data : List Word), exec i s = .next t ∧
        t.respPort = s.respPort ++ h :: data ∧ h.extractLsb' 24 8 = 0#8
    else
      ∃ e : CommandError, exec i s = .next { s with respPort := s.respPort ++ [responseHeader (errorCode e) 0] }

/-- R151, R152, R155: the three errors the source names are raised for exactly their causes: InvalidSeed by SEED with two
or more payload words, InvalidReconstructionInput by RECONSTRUCT with a length other than 624, UnsupportedBitWidth by
NEXT with a width other than 32, each only where no IllegalCommand condition holds first (R156), whatever the values
of the payload words, and by no other command; and each leaves `MT` and `IDX` as they were (an exhausted cursor stays
exhausted). -/
def Obligations.EachNamedErrorHasExactlyItsCause : Prop :=
  ∀ (i : Instr) (s : State), ∃ t : State, exec i s = .next t ∧
    (t.respPort = s.respPort ++ [0x01000000#32] ↔ ∃ p, i = .seed 0#8 p ∧ 2 ≤ p.length) ∧
    (t.respPort = s.respPort ++ [0x02000000#32] ↔ ∃ p, i = .reconstruct 0#8 p ∧ p.length ≠ 624) ∧
    (t.respPort = s.respPort ++ [0x03000000#32] ↔ ∃ arg, i = .next arg [] ∧ arg ≠ 32#8) ∧
    (t.respPort = s.respPort ++ [0x01000000#32] ∨ t.respPort = s.respPort ++ [0x02000000#32] ∨
      t.respPort = s.respPort ++ [0x03000000#32] → t.mt = s.mt ∧ t.idx = s.idx)

/-- R158, R28: the command after an error is executed exactly as it would have been had the failing command never been
sent: the same response, the same `MT` and `IDX`. -/
def Obligations.ErrorLeavesNoTraceForTheNextCommand : Prop :=
  ∀ (i j : Instr) (s : State), i.legal = false →
    ∃ (t u v : State) (ws : List Word), exec i s = .next t ∧ exec j s = .next u ∧ exec j t = .next v ∧
      SameBlock u v ∧ u.respPort = s.respPort ++ ws ∧ v.respPort = t.respPort ++ ws

/-- R186, R30: a command's response and next state are a function of `MT`, `IDX` and the command alone: blocks in equal
states given equal commands give equal responses and end in equal states, whatever was answered or presented before. -/
def Obligations.BehaviourDependsOnTheBlockAlone : Prop :=
  ∀ (i : Instr) (s s' : State), SameBlock s s' →
    ∃ (t t' : State) (ws : List Word), exec i s = .next t ∧ exec i s' = .next t' ∧ SameBlock t t' ∧
      t.respPort = s.respPort ++ ws ∧ t'.respPort = s'.respPort ++ ws

/-- R22: the only commands that change `MT` are SEED, RECONSTRUCT, TWIST, and a NEXT that finds the cursor at 624, each
with a legal packet; the port is left alone by every command. -/
def Obligations.OnlyFourCommandsChangeTheArray : Prop :=
  ∀ (i : Instr) (s t : State), exec i s = .next t →
    t.cmdPort = s.cmdPort ∧
    (t.mt ≠ s.mt → i.legal = true ∧
      match i with
      | .seed _ _ | .reconstruct _ _ | .twist _ _ => True
      | .next _ _ => s.idx.val = 624
      | .temper _ _ | .untemper _ _ => False)

/-- R25, R24: the only writes of the cursor: 624 by SEED and RECONSTRUCT, 0 by TWIST, plus one by NEXT, where 624 is first
replaced by 0; a refused command and TEMPER and UNTEMPER leave it. So it is 0 after a command only if that was a
TWIST or it was 0 before and not advanced. -/
def Obligations.CursorWritesAreTheListedOnes : Prop :=
  ∀ (i : Instr) (s t : State), exec i s = .next t →
    t.idx.val =
      (if i.legal = false then s.idx.val
       else match i with
        | .seed _ _ | .reconstruct _ _ => 624
        | .twist _ _ => 0
        | .next _ _ => if s.idx.val = 624 then 1 else s.idx.val + 1
        | .temper _ _ | .untemper _ _ => s.idx.val)

/-! ## Invariants of the response stream -/

/-- R61: every step keeps the response stream a sequence of whole responses. -/
def Obligations.StepKeepsTheResponseStreamWhole : Prop :=
  ∀ s t : State, ResponseStream s.respPort → step s = .next t → ResponseStream t.respPort

/-- R61: nothing has been answered at reset (the model's choice, log entry 1), so the response stream is whole. -/
def Obligations.ResetHasAWholeResponseStream : Prop := ResponseStream State.reset.respPort

/-- R61: a host can split the response stream into responses in one way only. -/
def Obligations.ResponseStreamReadsOneWay : Prop :=
  ∀ rs rs' : List Response, rs.flatMap Response.words = rs'.flatMap Response.words → rs = rs'

/-! ## Tempering and untempering -/

/-- R112: tempering is a bijection of the words: for every word `y` there is exactly one word `x` with `temper x = y`,
namely `untemper y`; and each of the four steps is itself a bijection. -/
def Obligations.TemperIsABijectionInvertedByUntemper : Prop :=
  (∀ x : Word, untemper (temper x) = x) ∧
  (∀ y : Word, temper (untemper y) = y) ∧
  (∀ y : Word, ∃! x : Word, temper x = y) ∧
  Function.Bijective temperStep1 ∧ Function.Bijective temperStep2 ∧
  Function.Bijective temperStep3 ∧ Function.Bijective temperStep4

/-- R113: which bits each tempering step can change, and into what. -/
def Obligations.EachTemperStepChangesOnlyItsBits : Prop :=
  ∀ (x : Word) (i : Nat), i < 32 →
    (temperStep1 x).getLsbD i = (if i ≤ 20 then x.getLsbD i ^^ x.getLsbD (i + 11) else x.getLsbD i) ∧
    (temperStep2 x).getLsbD i =
      (if i ∈ [31, 28, 27, 26, 24, 21, 19, 18, 14, 12, 10, 9, 7] then x.getLsbD i ^^ x.getLsbD (i - 7)
       else x.getLsbD i) ∧
    (temperStep3 x).getLsbD i =
      (if i ∈ [31, 30, 29, 27, 26, 25, 24, 23, 22, 18, 17] then x.getLsbD i ^^ x.getLsbD (i - 15)
       else x.getLsbD i) ∧
    (temperStep4 x).getLsbD i = (if i ≤ 13 then x.getLsbD i ^^ x.getLsbD (i + 18) else x.getLsbD i)

/-- R114: tempering is linear over GF(2), and is the XOR network of the spec's two tables. -/
def Obligations.TemperIsTheXorNetwork : Prop :=
  temper 0 = 0 ∧
  (∀ a b : Word, temper (a ^^^ b) = temper a ^^^ temper b) ∧
  (∀ (x : Word) (i : Nat) (bits : List Nat), temperInputs[i]? = some bits →
    (temper x).getLsbD i = xorBits x bits) ∧
  (∀ (j : Nat) (w : Word), temperColumns[j]? = some w → temper (1#32 <<< j) = w)

/-- R127, R126: untempering is linear over GF(2), and is the XOR network of the spec's two tables. -/
def Obligations.UntemperIsTheXorNetwork : Prop :=
  untemper 0 = 0 ∧
  (∀ a b : Word, untemper (a ^^^ b) = untemper a ^^^ untemper b) ∧
  (∀ (y : Word) (i : Nat) (bits : List Nat), untemperInputs[i]? = some bits →
    (untemper y).getLsbD i = xorBits y bits) ∧
  (∀ (j : Nat) (w : Word), untemperColumns[j]? = some w → untemper (1#32 <<< j) = w)

/-- R122: for every shift 1..31, `invRight y s` is the word `x` with `x ^ (x >> s) = y`, and the only one. -/
def Obligations.InvRightSolvesTheRightShiftEquation : Prop :=
  ∀ s : Nat, 1 ≤ s → s ≤ 31 → ∀ x y : Word,
    (invRight y s ^^^ (invRight y s >>> s) = y) ∧ (x ^^^ (x >>> s) = y → x = invRight y s)

/-- R123: for every mask and every shift 1..31, `invLeft y s m` is the word `x` with `x ^ ((x << s) & m) = y`, and the only
one. -/
def Obligations.InvLeftSolvesTheMaskedLeftShiftEquation : Prop :=
  ∀ s : Nat, 1 ≤ s → s ≤ 31 → ∀ x y m : Word,
    (invLeft y s m ^^^ ((invLeft y s m <<< s) &&& m) = y) ∧ (x ^^^ ((x <<< s) &&& m) = y → x = invLeft y s m)

/-- R124: the chunk form of the four inverse steps, as the spec's table gives it. -/
def Obligations.UntemperStepsInChunkForm : Prop :=
  ∀ y : Word,
    (let x := invRight y 18
     x.extractLsb' 14 18 = y.extractLsb' 14 18 ∧
     x.extractLsb' 0 14 = y.extractLsb' 0 14 ^^^ x.extractLsb' 18 14) ∧
    (let x := invLeft y 15 0xefc60000#32
     let c := 0xefc60000#32
     x.extractLsb' 0 15 = y.extractLsb' 0 15 ∧
     x.extractLsb' 15 15 = y.extractLsb' 15 15 ^^^ (x.extractLsb' 0 15 &&& c.extractLsb' 15 15) ∧
     x.extractLsb' 30 2 = y.extractLsb' 30 2 ^^^ (x.extractLsb' 15 2 &&& c.extractLsb' 30 2)) ∧
    (let x := invLeft y 7 0x9d2c5680#32
     let b := 0x9d2c5680#32
     x.extractLsb' 0 7 = y.extractLsb' 0 7 ∧
     x.extractLsb' 7 7 = y.extractLsb' 7 7 ^^^ (x.extractLsb' 0 7 &&& b.extractLsb' 7 7) ∧
     x.extractLsb' 14 7 = y.extractLsb' 14 7 ^^^ (x.extractLsb' 7 7 &&& b.extractLsb' 14 7) ∧
     x.extractLsb' 21 7 = y.extractLsb' 21 7 ^^^ (x.extractLsb' 14 7 &&& b.extractLsb' 21 7) ∧
     x.extractLsb' 28 4 = y.extractLsb' 28 4 ^^^ (x.extractLsb' 21 4 &&& b.extractLsb' 28 4)) ∧
    (let x := invRight y 11
     x.extractLsb' 21 11 = y.extractLsb' 21 11 ∧
     x.extractLsb' 10 11 = y.extractLsb' 10 11 ^^^ x.extractLsb' 21 11 ∧
     x.extractLsb' 0 10 = y.extractLsb' 0 10 ^^^ x.extractLsb' 11 10)

/-- R125: the iterated form of the four inverse steps: the passes that suffice (more do no harm), and that fewer than the
passes the table calls needed do not suffice. -/
def Obligations.UntemperStepsInIteratedForm : Prop :=
  (∀ (y : Word) (n : Nat),
    (1 ≤ n → iterRight y 18 n = invRight y 18) ∧
    (1 ≤ n → iterLeft y 15 0xefc60000#32 n = invLeft y 15 0xefc60000#32) ∧
    (4 ≤ n → iterLeft y 7 0x9d2c5680#32 n = invLeft y 7 0x9d2c5680#32) ∧
    (2 ≤ n → iterRight y 11 n = invRight y 11)) ∧
  (∃ y : Word, iterRight y 18 0 ≠ invRight y 18) ∧
  (∃ y : Word, iterLeft y 15 0xefc60000#32 0 ≠ invLeft y 15 0xefc60000#32) ∧
  (∃ y : Word, iterLeft y 7 0x9d2c5680#32 3 ≠ invLeft y 7 0x9d2c5680#32) ∧
  (∃ y : Word, iterRight y 11 1 ≠ invRight y 11)

/-- R110: TEMPER answers the tempered word and touches nothing; a wrong `ARG` or `LEN` raises IllegalCommand; the packet's
encoding; the corner cases. -/
def Obligations.TemperAnswersTheTemperedWord : Prop :=
  (∀ (s : State) (x : Word),
    exec (.temper 0#8 [x]) s = .next { s with respPort := s.respPort ++ [0x00000001#32, temper x] }) ∧
  (∀ (s : State) (arg : Octet) (p : List Word), arg ≠ 0#8 ∨ p.length ≠ 1 →
    exec (.temper arg p) s = .next { s with respPort := s.respPort ++ [0x04000000#32] }) ∧
  (∀ x : Word, encode (.temper 0#8 [x]) = [0x04000001#32, x]) ∧
  temper 0 = 0 ∧ temper 0xffffffff#32 = 0x6fe01bf8#32 ∧ temper 0x80000000#32 = 0x88102204#32 ∧
  temper 1#32 = 0x00400091#32

/-- R120: UNTEMPER answers the untempered word, the one whose tempered value is the operand, and touches nothing; a wrong
`ARG` or `LEN` raises IllegalCommand; the packet's encoding; the corner cases. -/
def Obligations.UntemperAnswersTheUntemperedWord : Prop :=
  (∀ (s : State) (y : Word), temper (untemper y) = y ∧
    exec (.untemper 0#8 [y]) s = .next { s with respPort := s.respPort ++ [0x00000001#32, untemper y] }) ∧
  (∀ (s : State) (arg : Octet) (p : List Word), arg ≠ 0#8 ∨ p.length ≠ 1 →
    exec (.untemper arg p) s = .next { s with respPort := s.respPort ++ [0x04000000#32] }) ∧
  (∀ y : Word, encode (.untemper 0#8 [y]) = [0x05000001#32, y]) ∧
  untemper 0 = 0 ∧ untemper 0xffffffff#32 = 0x12dd9bb3#32 ∧ untemper 0x80000000#32 = 0x80102204#32 ∧
  untemper 1#32 = 0x102244c9#32

/-- The spec's own worked examples of TEMPER and UNTEMPER (the sentences it marks "[derived: from rule R111; ..]" in R110 and
"[derived: from rule R121; ..]" in R120): the values after each step, and the two answers. -/
def Obligations.TemperingWorkedExamples : Prop :=
  temperStep1 0x12345678#32 = 0x123610f2#32 ∧ temperStep2 0x123610f2#32 = 0x0b3e40f2#32 ∧
  temperStep3 0x0b3e40f2#32 = 0x2b7e40f2#32 ∧ temperStep4 0x2b7e40f2#32 = 0x2b7e4a2d#32 ∧
  temper 0x12345678#32 = 0x2b7e4a2d#32 ∧
  invRight 0x8c7f0aac#32 18 = 0x8c7f29b3#32 ∧ invLeft 0x8c7f29b3#32 15 0xefc60000#32 = 0x08bf29b3#32 ∧
  invLeft 0x08bf29b3#32 7 0x9d2c5680#32 = 0x91b33933#32 ∧ invRight 0x91b33933#32 11 = 0x91a10d12#32 ∧
  untemper 0x8c7f0aac#32 = 0x91a10d12#32 ∧
  ∀ s : State,
    exec (.temper 0#8 [0x12345678#32]) s = .next { s with respPort := s.respPort ++ [0x00000001#32, 0x2b7e4a2d#32] } ∧
    exec (.untemper 0#8 [0x8c7f0aac#32]) s = .next { s with respPort := s.respPort ++ [0x00000001#32, 0x91a10d12#32] }

/-! ## Seeding and reset -/

/-- R90: SEED with a legal packet replaces the whole state by the expansion of the seed: the seed itself in word 0, then
for i in 1..623 the low 32 bits of the exact integer `0x6c078965 * (prev ^ (prev >> 30)) + i`, and the cursor at 624;
a nonzero `ARG` raises IllegalCommand, two or more payload words raise InvalidSeed, the state unchanged; the packets'
encoding. (The worked example's words are those R180 lists, in ResetIsTheStateAfterSeedZero.) -/
def Obligations.SeedExpandsTheSeedIntoTheWholeArray : Prop :=
  (∀ (s : State) (payload : List Word) (v : Word), (payload = [] ∧ v = 0) ∨ payload = [v] →
    ∃ t : State, exec (.seed 0#8 payload) s = .next t ∧
      readWord t.mt 0 = v ∧
      (∀ (i : Nat) (h1 : 1 ≤ i) (h2 : i ≤ 623),
        (readWord t.mt ⟨i, by omega⟩).toNat =
          (0x6c078965 * (readWord t.mt ⟨i - 1, by omega⟩ ^^^ (readWord t.mt ⟨i - 1, by omega⟩ >>> 30)).toNat + i)
            % 2 ^ 32) ∧
      t.idx.val = 624 ∧ t.cmdPort = s.cmdPort ∧ t.respPort = s.respPort ++ [0x00000000#32]) ∧
  (∀ (s : State) (arg : Octet) (p : List Word),
    (arg ≠ 0#8 → exec (.seed arg p) s = .next { s with respPort := s.respPort ++ [0x04000000#32] }) ∧
    (arg = 0#8 ∧ 2 ≤ p.length →
      exec (.seed arg p) s = .next { s with respPort := s.respPort ++ [0x01000000#32] })) ∧
  encode (.seed 0#8 []) = [0x01000000#32] ∧ ∀ v : Word, encode (.seed 0#8 [v]) = [0x01000001#32, v]

/-- R26, R93 a: nothing of the previous state survives SEED or RECONSTRUCT: from any two states, the same legal command
leaves the same `MT` and `IDX`; and SEED without a payload is SEED of 0. -/
def Obligations.SeedAndReconstructDiscardTheOldState : Prop :=
  (∀ (s s' : State) (v : Word), ∃ t t' : State,
    exec (.seed 0#8 [v]) s = .next t ∧ exec (.seed 0#8 [v]) s' = .next t' ∧ SameBlock t t') ∧
  (∀ s s' : State, ∃ t t' : State,
    exec (.seed 0#8 []) s = .next t ∧ exec (.seed 0#8 [0#32]) s' = .next t' ∧ SameBlock t t') ∧
  (∀ (s s' : State) (p : List Word), p.length = 624 → ∃ t t' : State,
    exec (.reconstruct 0#8 p) s = .next t ∧ exec (.reconstruct 0#8 p) s' = .next t' ∧ SameBlock t t')

/-- R93 b: seeding never produces the all-zero array: words 0 and 1 are never both zero. -/
def Obligations.SeedingNeverGivesTheZeroArray : Prop :=
  ∀ (s : State) (p : List Word), p.length ≤ 1 → ∃ t : State, exec (.seed 0#8 p) s = .next t ∧
    ¬ (readWord t.mt 0 = 0 ∧ readWord t.mt 1 = 0) ∧ t.mt ≠ zeroArray

/-- R180: the reset state is the state SEED with seed 0 leaves, from any state. -/
def Obligations.ResetIsTheStateAfterSeedZero : Prop :=
  (∀ s : State, ∃ t : State, exec (.seed 0#8 [0#32]) s = .next t ∧ SameBlock State.reset t) ∧
  readWord State.reset.mt 0 = 0x00000000#32 ∧
  (∀ (i : Nat) (h1 : 1 ≤ i) (h2 : i ≤ 623),
    (readWord State.reset.mt ⟨i, by omega⟩).toNat =
      (0x6c078965 * (readWord State.reset.mt ⟨i - 1, by omega⟩ ^^^
        (readWord State.reset.mt ⟨i - 1, by omega⟩ >>> 30)).toNat + i) % 2 ^ 32) ∧
  readWord State.reset.mt 1 = 0x00000001#32 ∧ readWord State.reset.mt 2 = 0x6c078967#32 ∧
  readWord State.reset.mt 3 = 0x714acb41#32 ∧ readWord State.reset.mt 623 = 0x6b1a1930#32 ∧
  State.reset.idx.val = 624

/-- R181: the reset event replaces `MT` and `IDX` by the reset values in one step, without a response and without touching
what is presented after it; a first NEXT after it is answered 0x8c7f0aac. (That a reset stands in the order of the port and
leaves both ends of it is the model's choice, log entry 9.) -/
def Obligations.ResetEventRestoresTheResetState : Prop :=
  (∀ (s : State) (items : List PortItem), s.cmdPort = .reset :: items →
    step s = .next { mt := State.reset.mt, idx := State.reset.idx, cmdPort := items, respPort := s.respPort }) ∧
  (∀ (s : State) (items : List PortItem), s.cmdPort = .reset :: .word 0x02200000#32 :: items →
    ∃ t u : State, step s = .next t ∧ step t = .next u ∧ u.cmdPort = items ∧
      u.respPort = s.respPort ++ [0x00000001#32, 0x8c7f0aac#32])

/-! ## The twist -/

/-- R101: the mixing function bit by bit; the bits of its operands it depends on; and step `k` of the twist in its terms. -/
def Obligations.MixUsesTopBitAndLowBits : Prop :=
  (∀ (hi lo : Word) (i : Nat), i < 32 →
    (mix hi lo).getLsbD i =
      ((if i = 31 then false else if i = 30 then hi.getLsbD 31 else lo.getLsbD (i + 1)) ^^
        (lo.getLsbD 0 && (0x9908b0df#32).getLsbD i))) ∧
  (∀ hi hi' lo lo' : Word, hi.getLsbD 31 = hi'.getLsbD 31 → (∀ i, i < 31 → lo.getLsbD i = lo'.getLsbD i) →
    mix hi lo = mix hi' lo') ∧
  (∀ (k : Index) (mt : MT), twistStep k mt =
    writeWord mt k (readWord mt ⟨(k.val + 397) % 624, Nat.mod_lt _ (by decide)⟩ ^^^
      mix (readWord mt k) (readWord mt ⟨(k.val + 1) % 624, Nat.mod_lt _ (by decide)⟩)))

/-- R102, R100, R104: TWIST, the in-place loop in increasing order, is the functional form: with O the array before and T
the array after, `T[k] = O[k+397] ^ mix(O[k], O[k+1])` for k in 0..226, `T[k] = T[k-227] ^ mix(O[k], O[k+1])` for k
in 227..622, `T[623] = T[396] ^ mix(O[623], T[0])`; the cursor is 0 and the response OK. -/
def Obligations.TwistIsTheFunctionalForm : Prop :=
  ∀ s : State, ∃ t : State, exec (.twist 0#8 []) s = .next t ∧
    (∀ (k : Nat) (h : k ≤ 226), readWord t.mt ⟨k, by omega⟩ =
      readWord s.mt ⟨k + 397, by omega⟩ ^^^ mix (readWord s.mt ⟨k, by omega⟩) (readWord s.mt ⟨k + 1, by omega⟩)) ∧
    (∀ (k : Nat) (h1 : 227 ≤ k) (h2 : k ≤ 622), readWord t.mt ⟨k, by omega⟩ =
      readWord t.mt ⟨k - 227, by omega⟩ ^^^ mix (readWord s.mt ⟨k, by omega⟩) (readWord s.mt ⟨k + 1, by omega⟩)) ∧
    readWord t.mt 623 = readWord t.mt 396 ^^^ mix (readWord s.mt 623) (readWord t.mt 0) ∧
    t.idx.val = 0 ∧ t.cmdPort = s.cmdPort ∧ t.respPort = s.respPort ++ [0x00000000#32]

/-- R104: TWIST: errors, encoding, corner cases (at `IDX = 624`, TWIST then NEXT gives the answer and the state of NEXT
alone; after any TWIST the next NEXT returns the first word of the new generation; two TWISTs skip a generation). -/
def Obligations.TwistCommandAndItsCornerCases : Prop :=
  (∀ (s : State) (arg : Octet) (p : List Word), arg ≠ 0#8 ∨ p.length ≠ 0 →
    exec (.twist arg p) s = .next { s with respPort := s.respPort ++ [0x04000000#32] }) ∧
  encode (.twist 0#8 []) = [0x06000000#32] ∧
  (∀ s : State, ∃ t u : State, exec (.twist 0#8 []) s = .next t ∧ t.mt = twistArray s.mt ∧ t.idx.val = 0 ∧
    t.cmdPort = s.cmdPort ∧ t.respPort = s.respPort ++ [0x00000000#32] ∧
    exec next32 t = .next u ∧ u.mt = t.mt ∧ u.idx.val = 1 ∧
    u.respPort = t.respPort ++ [0x00000001#32, temper (readWord t.mt 0)]) ∧
  (∀ s : State, s.idx.val = 624 → ∃ (t u v : State) (ws : List Word),
    exec (.twist 0#8 []) s = .next t ∧ exec next32 t = .next u ∧ exec next32 s = .next v ∧ SameBlock u v ∧
    u.respPort = t.respPort ++ ws ∧ v.respPort = s.respPort ++ ws) ∧
  (∀ s : State, ∃ t u : State, exec (.twist 0#8 []) s = .next t ∧ exec (.twist 0#8 []) t = .next u ∧
    u.mt = twistArray (twistArray s.mt) ∧ u.idx.val = 0)

/-- The spec's own worked example of TWIST (the sentence of R104 it marks "[derived: from rule R100; ..]"): an array that is
zero but for `MT[1] = 1`. It tells the in-place twist from the snapshot reading (spec/90_conflicts.md C1). -/
def Obligations.TwistWorkedExample : Prop :=
  ∀ s : State, s.mt = writeWord zeroArray 1 1#32 → ∃ t : State, exec (.twist 0#8 []) s = .next t ∧
    t.idx.val = 0 ∧
    ∀ k : Index, readWord t.mt k =
      if k.val = 0 ∨ k.val = 227 ∨ k.val = 454 then 0x9908b0df#32
      else if k.val = 623 then 0x958ce8b0#32 else 0#32

/-- R103 b, c: the twist is linear over GF(2), the all-zero array is its fixed point, and bits 30..0 of the old `MT[0]` are
never read. -/
def Obligations.TwistIsLinearAndIgnoresLowBitsOfWordZero : Prop :=
  (∀ a b : MT, twistArray (xorArray a b) = xorArray (twistArray a) (twistArray b)) ∧
  twistArray zeroArray = zeroArray ∧
  (∀ a b : MT, (readWord a 0).getLsbD 31 = (readWord b 0).getLsbD 31 →
    (∀ k : Index, k ≠ 0 → readWord a k = readWord b k) → twistArray a = twistArray b)

/-- R105: sequence form and shift invariance. Every array is the first window of a sequence that obeys the recurrence at
every position; after j twists it is the window at 624 * j; and the twist of the window at any position w, aligned
or not, is the window at w + 624. -/
def Obligations.TwistOfAnyWindowIsTheNextWindow : Prop :=
  (∀ mt : MT, ∃ x : Nat → Word, TwistSequence x ∧ window x 0 = mt) ∧
  (∀ x : Nat → Word, TwistSequence x → ∀ w : Nat, twistArray (window x w) = window x (w + 624)) ∧
  (∀ x : Nat → Word, TwistSequence x → ∀ j : Nat, generation (window x 0) j = window x (624 * j))

/-! ## Output -/

/-- R140: NEXT with a legal packet. Below 624 it answers the tempered word at the cursor and advances the cursor, `MT`
unchanged (at 623 too: no twist yet); at 624 it first twists, answers the tempered word 0 of the new generation and
leaves the cursor at 1. A payload raises IllegalCommand, another width UnsupportedBitWidth, both before any twist;
the packet's encoding. -/
def Obligations.NextAnswersTheTemperedWordAndAdvances : Prop :=
  (∀ (s : State) (h : s.idx.val < 624),
    exec (.next 32#8 []) s = .next { s with
      idx := ⟨s.idx.val + 1, by omega⟩
      respPort := s.respPort ++ [0x00000001#32, temper (readWord s.mt ⟨s.idx.val, h⟩)] }) ∧
  (∀ s : State, s.idx.val = 624 →
    exec (.next 32#8 []) s = .next { s with
      mt := twistArray s.mt
      idx := ⟨1, by omega⟩
      respPort := s.respPort ++ [0x00000001#32, temper (readWord (twistArray s.mt) 0)] }) ∧
  (∀ (s : State) (arg : Octet) (p : List Word),
    (p.length ≠ 0 → exec (.next arg p) s = .next { s with respPort := s.respPort ++ [0x04000000#32] }) ∧
    (p.length = 0 ∧ arg ≠ 32#8 →
      exec (.next arg p) s = .next { s with respPort := s.respPort ++ [0x03000000#32] })) ∧
  encode (.next 32#8 []) = [0x02200000#32]

/-- The spec's own worked example of NEXT (the sentence of R140 it marks "[derived: from this rule; ..]"): the first three
outputs after SEED 0. -/
def Obligations.FirstOutputsAfterSeedZero : Prop :=
  ∀ s : State, ∃ t : State, execAll [.seed 0#8 [0#32], next32, next32, next32] s = .next t ∧ t.idx.val = 3 ∧
    t.respPort = s.respPort ++ [0x00000000#32, 0x00000001#32, 0x8c7f0aac#32, 0x00000001#32, 0x97c4aa2f#32,
      0x00000001#32, 0xb716a675#32]

/-- R141: the width guard: width 32 succeeds; every other width is refused with the state unchanged and no output consumed, so
that the NEXT after it returns the output the refused one would have returned. -/
def Obligations.RefusedWidthConsumesNoOutput : Prop :=
  ∀ (s : State) (k : Octet), k ≠ 32#8 → ∃ (t u v : State) (w : Word),
    exec (.next k []) s = .next t ∧ t.mt = s.mt ∧ t.idx = s.idx ∧ t.respPort = s.respPort ++ [0x03000000#32] ∧
    exec (.next 32#8 []) s = .next u ∧ exec (.next 32#8 []) t = .next v ∧ SameBlock u v ∧
    u.respPort = s.respPort ++ [0x00000001#32, w] ∧ v.respPort = t.respPort ++ [0x00000001#32, w]

/-- R142: the output sequence. From any array with the cursor at 624, n successive NEXTs complete and answer, in order,
output m = `temper(G(m / 624 + 1)[m mod 624])` for m in 0..n-1, where `G(j)` is the array after j twists; after output
n - 1 the array is `G((n-1) / 624 + 1)` and the cursor `(n-1) mod 624 + 1`. -/
def Obligations.OutputsAreTheTemperedGenerationsInOrder : Prop :=
  ∀ (s : State) (n : Nat), s.idx.val = 624 →
    ∃ t : State, execAll (List.replicate n next32) s = .next t ∧ t.cmdPort = s.cmdPort ∧
      t.respPort = s.respPort ++ outputResponses ((List.range n).map fun m =>
        temper (readWord (generation s.mt (m / 624 + 1)) ⟨m % 624, Nat.mod_lt _ (by decide)⟩)) ∧
      (1 ≤ n → t.mt = generation s.mt ((n - 1) / 624 + 1) ∧ t.idx.val = (n - 1) % 624 + 1)

/-- R143: two blocks given SEED with the same seed and then the same number of NEXTs return the same words and end in the
same state, whatever they held before. -/
def Obligations.EqualSeedsGiveEqualOutputs : Prop :=
  ∀ (a b : State) (v : Word) (n : Nat), ∃ (a' b' : State) (ws : List Word),
    execAll (.seed 0#8 [v] :: List.replicate n next32) a = .next a' ∧
    execAll (.seed 0#8 [v] :: List.replicate n next32) b = .next b' ∧
    SameBlock a' b' ∧ a'.respPort = a.respPort ++ ws ∧ b'.respPort = b.respPort ++ ws

/-- R103 b, R130: RECONSTRUCT of 624 zero words loads the all-zero array, and the block then outputs 0 for ever. -/
def Obligations.ZeroArrayOutputsZeroForEver : Prop :=
  ∀ (s : State) (n : Nat), ∃ t u : State,
    exec (.reconstruct 0#8 (List.replicate 624 0#32)) s = .next t ∧ t.mt = zeroArray ∧
    execAll (List.replicate n next32) t = .next u ∧ u.mt = zeroArray ∧
    u.respPort = t.respPort ++ outputResponses (List.replicate n 0#32)

/-! ## Reconstruction -/

/-- R130, R131: RECONSTRUCT with 624 words loads word i with the untempered value of payload word i and sets the cursor to
624; a nonzero `ARG` raises IllegalCommand, any other length InvalidReconstructionInput, with nothing written; the
packet's header. -/
def Obligations.ReconstructLoadsTheUntemperedOutputs : Prop :=
  (∀ (s : State) (p : List Word) (h : p.length = 624), ∃ t : State, exec (.reconstruct 0#8 p) s = .next t ∧
    (∀ (i : Nat) (hi : i < 624), readWord t.mt ⟨i, hi⟩ = untemper (p[i]'(by omega))) ∧
    t.idx.val = 624 ∧ t.cmdPort = s.cmdPort ∧ t.respPort = s.respPort ++ [0x00000000#32]) ∧
  (∀ (s : State) (arg : Octet) (p : List Word),
    (arg ≠ 0#8 → exec (.reconstruct arg p) s = .next { s with respPort := s.respPort ++ [0x04000000#32] }) ∧
    (arg = 0#8 ∧ p.length ≠ 624 →
      exec (.reconstruct arg p) s = .next { s with respPort := s.respPort ++ [0x02000000#32] })) ∧
  (∀ p : List Word, p.length = 624 → encode (.reconstruct 0#8 p) = 0x03000270#32 :: p)

/-- R132: TW's cloning property, aligned to a twist. Let a source be about to output its first word after a twist: it has
just twisted (cursor 0), or its next NEXT twists (cursor 624: after reset, SEED or RECONSTRUCT, "the first 624 outputs
after seeding qualify", or at the end of a generation). Its next 624 outputs, given to RECONSTRUCT on any block, make
that block's `MT` and `IDX` equal to the source's, and the two give equal answers and stay equal for any number of
further NEXTs. -/
def Obligations.AlignedCaptureClonesTheState : Prop :=
  ∀ a b : State, a.idx.val = 0 ∨ a.idx.val = 624 →
    ∃ (a' b' : State) (o : List Word), o.length = 624 ∧
      execAll cloneCapture a = .next a' ∧ a'.respPort = a.respPort ++ outputResponses o ∧
      exec (cloneLoad o) b = .next b' ∧ SameBlock a' b' ∧
      ∀ n : Nat, ∃ (a'' b'' : State) (ws : List Word),
        execAll (List.replicate n next32) a' = .next a'' ∧ execAll (List.replicate n next32) b' = .next b'' ∧
        SameBlock a'' b'' ∧ a''.respPort = a'.respPort ++ ws ∧ b''.respPort = b'.respPort ++ ws

/-- R133, and spec/90_conflicts.md C6: the stronger law. Whatever the source's cursor, its next 624 outputs given to
RECONSTRUCT on any block make that block answer what the source answers, for any number of further NEXTs. -/
def Obligations.AnyCaptureClonesTheOutputStream : Prop :=
  ∀ a b : State, ∃ (a' b' : State) (o : List Word), o.length = 624 ∧
    execAll cloneCapture a = .next a' ∧ a'.respPort = a.respPort ++ outputResponses o ∧
    exec (cloneLoad o) b = .next b' ∧
    ∀ n : Nat, ∃ (a'' b'' : State) (outs : List Word), outs.length = n ∧
      execAll (List.replicate n next32) a' = .next a'' ∧ execAll (List.replicate n next32) b' = .next b'' ∧
      a''.respPort = a'.respPort ++ outputResponses outs ∧ b''.respPort = b'.respPort ++ outputResponses outs

/-- The spec's own worked example of RECONSTRUCT (the sentence of R130 it marks "[derived: from this rule; ..]"): the 624
outputs after SEED 0x1571, loaded into any block, give the words it lists and output 624 of the source next. -/
def Obligations.CloneOfSeed1571 : Prop :=
  ∀ a b : State, ∃ (a' b' c : State) (o : List Word), o.length = 624 ∧
    execAll (.seed 0#8 [0x00001571#32] :: cloneCapture) a = .next a' ∧
    a'.respPort = a.respPort ++ 0x00000000#32 :: outputResponses o ∧
    o[0]? = some 0xd091bb5c#32 ∧ o[1]? = some 0x22ae9ef6#32 ∧ o[623]? = some 0xefa14dff#32 ∧
    exec (cloneLoad o) b = .next b' ∧ b'.idx.val = 624 ∧
    readWord b'.mt 0 = 0x9b0afa27#32 ∧ readWord b'.mt 1 = 0xe99de361#32 ∧ readWord b'.mt 623 = 0xd1b102b7#32 ∧
    exec next32 b' = .next c ∧ c.respPort = b'.respPort ++ [0x00000001#32, 0xf914dc58#32]

/-! ## The host's side -/

/-- R70: the words of each assembler line are the packet of the command it stands for (a `.packet` line with as many words
as its header announces). -/
def Obligations.AssemblerLinesAreTheirPackets : Prop :=
  ∀ (line : Asm) (i : Instr), line.command = some i →
    (match line with
      | .packet h ps => ps.length = headerLen h
      | .reconstruct ws => ws.length < 65536
      | _ => True) →
    encode i = line.words

/-- R146, R145: the host's `next_f64`: the integer m is the 27 high bits of the first draw above the 26 high bits of the
second, so 0 <= m < 2^53 and 0 <= value < 1; the least and greatest values; and the first value after SEED 0. -/
def Obligations.FloatAdapterStaysBelowOne : Prop :=
  (∀ d1 d2 : Word, f64Mantissa d1 d2 = ((d1.extractLsb' 5 27 ++ d2.extractLsb' 6 26 : BitVec (27 + 26))).toNat ∧
    f64Mantissa d1 d2 ≤ 2 ^ 53 - 1 ∧ 0 ≤ f64Value d1 d2 ∧ f64Value d1 d2 ≤ 1 - 1 / 2 ^ 53 ∧ f64Value d1 d2 < 1) ∧
  f64Value 0 0 = 0 ∧ f64Value 0xffffffff#32 0xffffffff#32 = 1 - 1 / 2 ^ 53 ∧
  (∀ s : State, ∃ t : State, execAll (.seed 0#8 [0#32] :: nextF64Commands) s = .next t ∧
    t.respPort = s.respPort ++ [0x00000000#32, 0x00000001#32, 2357136044#32, 0x00000001#32, 2546248239#32]) ∧
  f64Mantissa 2357136044#32 2546248239#32 = 4943272583565992
end

