-- ==== Sys2Proof/Laws/Decode.lean ====
section
/-! SUPPORT. The header fields of an assembled header, taking words, and what selecting a command can give. -/

namespace Sys2Proof

@[simp] theorem headerOp_makeHeader (op arg : Octet) (len : Nat) : headerOp (makeHeader op arg len) = op := by
  apply BitVec.eq_of_getLsbD_eq
  intro i hi
  have h1 : ¬ 24 + i < 16 := by omega
  have h2 : ¬ 24 + i - 16 < 8 := by omega
  have h3 : 24 + i - 16 - 8 = i := by omega
  simp only [headerOp, makeHeader, BitVec.getLsbD_extractLsb', BitVec.getLsbD_append, h1, h2, h3, if_false]
  simp [hi]

@[simp] theorem headerArg_makeHeader (op arg : Octet) (len : Nat) : headerArg (makeHeader op arg len) = arg := by
  apply BitVec.eq_of_getLsbD_eq
  intro i hi
  have h1 : ¬ 16 + i < 16 := by omega
  have h3 : 16 + i - 16 = i := by omega
  simp only [headerArg, makeHeader, BitVec.getLsbD_extractLsb', BitVec.getLsbD_append, h1, h3, if_false]
  simp [hi]

theorem headerLen_makeHeader (op arg : Octet) (len : Nat) : headerLen (makeHeader op arg len) = len % 65536 := by
  have h : (makeHeader op arg len).extractLsb' 0 16 = BitVec.ofNat 16 len := by
    apply BitVec.eq_of_getLsbD_eq
    intro i hi
    have h1 : 0 + i < 16 := by omega
    simp only [makeHeader, BitVec.getLsbD_extractLsb', BitVec.getLsbD_append, h1, if_true]
    simp [hi]
  rw [headerLen, h, BitVec.toNat_ofNat]

/-- A header is determined by its three fields. -/
theorem makeHeader_fields (h : Word) : makeHeader (headerOp h) (headerArg h) (headerLen h) = h := by
  apply BitVec.eq_of_getLsbD_eq
  intro i hi
  simp only [makeHeader, headerOp, headerArg, headerLen, BitVec.ofNat_toNat, BitVec.getLsbD_append,
    BitVec.getLsbD_setWidth, BitVec.getLsbD_extractLsb']
  by_cases h1 : i < 16
  · simp [h1]
  · by_cases h2 : i - 16 < 8
    · have e : 16 + (i - 16) = i := by omega
      simp [h1, h2, e]
    · have h3 : i - 16 - 8 < 8 := by omega
      have e : 24 + (i - 16 - 8) = i := by omega
      simp only [h1, h2, h3, e, if_false, decide_true, Bool.true_and]

theorem takeWords_append (ws rest : List Word) : takeWords ws.length (ws ++ rest) = some (ws, rest) := by
  induction ws with
  | nil => rfl
  | cons w ws ih => simp [takeWords, ih]

/-- Taking words splits the list where it succeeds. -/
theorem takeWords_eq_some : ∀ (n : Nat) (ws taken rest : List Word), takeWords n ws = some (taken, rest) →
    ws = taken ++ rest ∧ taken.length = n
  | 0, ws, taken, rest, h => by
    simp only [takeWords, Option.some.injEq, Prod.mk.injEq] at h
    obtain ⟨rfl, rfl⟩ := h
    simp
  | n + 1, [], taken, rest, h => by simp [takeWords] at h
  | n + 1, w :: ws, taken, rest, h => by
    simp only [takeWords] at h
    split at h
    · rename_i t r heq
      simp only [Option.some.injEq, Prod.mk.injEq] at h
      obtain ⟨rfl, rfl⟩ := h
      obtain ⟨rfl, rfl⟩ := takeWords_eq_some n ws t _ heq
      simp
    · simp at h

/-- Taking words fails exactly where there are fewer. -/
theorem takeWords_eq_none : ∀ (n : Nat) (ws : List Word), takeWords n ws = none ↔ ws.length < n
  | 0, ws => by simp [takeWords]
  | n + 1, [] => by simp [takeWords]
  | n + 1, w :: ws => by
    have ih := takeWords_eq_none n ws
    simp only [takeWords, List.length_cons]
    split <;> simp_all

@[simp] theorem selectCommand_op (i : Instr) : selectCommand i.op i.arg i.payload = some i := by
  cases i <;> simp [selectCommand, Instr.op, Instr.arg, Instr.payload]

/-- Selecting a command gives back the three parts of the packet. -/
theorem selectCommand_eq_some (op arg : Octet) (payload : List Word) (i : Instr)
    (h : selectCommand op arg payload = some i) : i.op = op ∧ i.arg = arg ∧ i.payload = payload := by
  unfold selectCommand at h
  repeat' split at h
  all_goals first
    | (simp only [Option.some.injEq] at h; subst h; simp_all [Instr.op, Instr.arg, Instr.payload])
    | simp at h

/-- No command is selected exactly by `0x00` and `0x07`..`0xff` (R62). -/
theorem selectCommand_eq_none (op arg : Octet) (payload : List Word) :
    selectCommand op arg payload = none ↔ op.toNat = 0 ∨ 7 ≤ op.toNat := by
  unfold selectCommand
  constructor
  · intro h
    repeat' split at h
    all_goals try contradiction
    simp only [BitVec.toNat_eq] at *
    simp at *
    omega
  · intro h
    have ne : ∀ n : Nat, 1 ≤ n → n < 7 → op ≠ BitVec.ofNat 8 n := by
      intro n h1 h2 e
      have := congrArg BitVec.toNat e
      rw [BitVec.toNat_ofNat] at this
      omega
    simp [ne 1, ne 2, ne 3, ne 4, ne 5, ne 6]

end Sys2Proof
end

