-- ==== Sys2Proof/Laws/Storage.lean ====
section
/-! SUPPORT. Reading and writing one word or one bit, and everything the two loops can do: the induction over a loop is
done here once. -/

namespace Sys2Proof.Machine

theorem readWord_writeWord (mt : MT) (k j : Index) (v : Word) :
    readWord (writeWord mt k v) j = if k = j then v else readWord mt j := by
  simp [readWord, writeWord, Vector.getElem_set, Fin.ext_iff]

@[simp] theorem readWord_writeWord_same (mt : MT) (k : Index) (v : Word) :
    readWord (writeWord mt k v) k = v := by simp [readWord_writeWord]

theorem readWord_writeWord_ne (mt : MT) (k j : Index) (v : Word) (h : k ≠ j) :
    readWord (writeWord mt k v) j = readWord mt j := by simp [readWord_writeWord, h]

/-- Two arrays that read alike everywhere are the same array. -/
theorem readWord_ext (a b : MT) (h : ∀ k, readWord a k = readWord b k) : a = b :=
  Vector.ext fun i hi => h ⟨i, hi⟩

theorem readBit_writeBit (x : Word) (i : Nat) (b : Bool) (j : Nat) (hi : i < 32) :
    readBit (writeBit x i b) j = if i = j then b else readBit x j := by
  unfold readBit writeBit
  by_cases hj : j < 32
  · have hne : (1#32).getLsbD (j - i) = decide (j - i = 0) := by simp
    by_cases hij : i = j
    · subst hij
      cases b <;> simp [hj]
    · rcases Nat.lt_or_ge j i with hlt | hge
      · cases b <;> simp [hj, hij, hlt]
      · have h0 : ¬ (j - i = 0) := by omega
        cases b <;> simp [hj, hij, h0]
  · have hij : i ≠ j := by omega
    simp [hij, BitVec.getLsbD_of_ge _ _ (Nat.le_of_not_lt hj)]

/-- The induction over an upward loop: what holds before, and is kept by every pass, holds after. -/
theorem forUp_induct {N : Nat} {α : Type} (body : Fin N → α → α) (P : Nat → α → Prop) (a : α) (h0 : P 0 a)
    (hs : ∀ (n : Nat) (h : n < N) (b : α), P n b → P (n + 1) (body ⟨n, h⟩ b)) :
    ∀ (n : Nat) (h : n ≤ N), P n (forUp body n h a)
  | 0, _ => h0
  | n + 1, h => hs n h _ (forUp_induct body P a h0 hs n (Nat.le_of_succ_le h))

/-- The induction over a downward loop: `P n` holds while the passes `n-1 .. 0` are still to come. -/
theorem forDown_induct {N : Nat} {α : Type} (body : Fin N → α → α) (P : Nat → α → Prop)
    (hs : ∀ (n : Nat) (h : n < N) (b : α), P (n + 1) b → P n (body ⟨n, h⟩ b)) :
    ∀ (n : Nat) (h : n ≤ N) (a : α), P n a → P 0 (forDown body n h a)
  | 0, _, _, ha => ha
  | n + 1, h, a, ha => forDown_induct body P hs n (Nat.le_of_succ_le h) _ (hs n h a ha)

/-- Everything a loop can do whose pass `k` writes word `k` alone: a word it has reached holds what its pass computed from
the array as it stood then; a word it has not reached is as before. -/
theorem forUp_write_read (f : Index → MT → Word) (mt : MT) (j : Index) :
    ∀ (n : Nat) (h : n ≤ 624),
      readWord (forUp (fun k a => writeWord a k (f k a)) n h mt) j =
        if j.val < n then f j (forUp (fun k a => writeWord a k (f k a)) j.val (Nat.le_of_lt j.isLt) mt)
        else readWord mt j
  | 0, _ => by simp [forUp]
  | n + 1, h => by
    rw [forUp, readWord_writeWord, forUp_write_read f mt j n (Nat.le_of_succ_le h)]
    by_cases hj : (⟨n, h⟩ : Index) = j
    · subst hj; simp
    · have : n ≠ j.val := fun e => hj (Fin.ext e)
      simp only [hj, if_false]
      have e : j.val < n + 1 ↔ j.val < n := by omega
      simp [e]

end Sys2Proof.Machine
end

