-- ==== Sys2Proof/Laws/Recurrence.lean ====
section
/-! SUPPORT. What each of the three whole-array operations leaves in every word: the one lemma about each that later proofs
cite instead of unfolding its loop. -/

namespace Sys2Proof.Machine

/-- The words seeding produces, one after the other (R90). -/
def seedSequence (v : Word) : Nat → Word
  | 0 => v
  | i + 1 => seedWord (seedSequence v i) (i + 1)

/-- Seeding writes the seed sequence, whatever the array held before. -/
theorem readWord_seedArray (v : Word) (mt : MT) (k : Index) :
    readWord (seedArray v mt) k = seedSequence v k.val := by
  have key := forUp_induct seedStep
    (fun n a => ∀ j : Index, j.val ≤ n → readWord a j = seedSequence v j.val)
    (writeWord mt 0 v)
    (by
      intro j hj
      have : j = 0 := Fin.ext (by simpa using hj)
      subst this
      simp [seedSequence])
    (by
      intro n h a ih j hj
      unfold seedStep
      rw [readWord_writeWord]
      by_cases hjn : (Fin.succ ⟨n, h⟩ : Index) = j
      · subst hjn
        have := ih (Fin.castSucc ⟨n, h⟩) (by simp)
        simp only [if_true, this]
        simp [seedSequence]
      · have hne : n + 1 ≠ j.val := fun e => hjn (Fin.ext (by simpa using e))
        simp only [hjn, if_false]
        exact ih j (by omega))
    623 (Nat.le_refl 623) k (by omega)
  unfold seedArray
  exact key

/-- Reconstruction writes the untempered word at every index, whatever the array held before. -/
theorem readWord_reconstructArray (observed mt : MT) (k : Index) :
    readWord (reconstructArray observed mt) k = untemper (readWord observed k) := by
  have h := forUp_write_read (fun i _ => untemper (readWord observed i)) mt k 624 (Nat.le_refl 624)
  rw [if_pos k.isLt] at h
  unfold reconstructArray
  exact h

/-- What pass `k` of the twist computes from the array as it stands (R100). -/
def twistWord (k : Index) (mt : MT) : Word :=
  readWord mt (indexPlus k twistOffset) ^^^ mix (readWord mt k) (readWord mt (indexPlus k 1))

/-- The array after the first `n` passes of the twist. -/
def twistPrefix (n : Nat) (h : n ≤ 624) (mt : MT) : MT := forUp twistStep n h mt

theorem readWord_twistPrefix (mt : MT) (j : Index) (n : Nat) (h : n ≤ 624) :
    readWord (twistPrefix n h mt) j =
      if j.val < n then twistWord j (twistPrefix j.val (Nat.le_of_lt j.isLt) mt) else readWord mt j :=
  forUp_write_read twistWord mt j n h

theorem readWord_twistArray_eq_prefix (mt : MT) (j : Index) :
    readWord (twistArray mt) j = twistWord j (twistPrefix j.val (Nat.le_of_lt j.isLt) mt) := by
  have h := readWord_twistPrefix mt j 624 (Nat.le_refl 624)
  rw [if_pos j.isLt] at h
  unfold twistArray
  exact h

/-- A word already reached holds its final value; one not yet reached its old value. -/
theorem readWord_twistPrefix_final (mt : MT) (j : Index) (n : Nat) (h : n ≤ 624) :
    readWord (twistPrefix n h mt) j = if j.val < n then readWord (twistArray mt) j else readWord mt j := by
  rw [readWord_twistPrefix, readWord_twistArray_eq_prefix]

/-- Everything a twist does (R100): which reads see rewritten words is decided by the index alone. -/
theorem readWord_twistArray (mt : MT) (k : Index) :
    readWord (twistArray mt) k =
      readWord (if k.val < 227 then mt else twistArray mt) (indexPlus k 397) ^^^
        mix (readWord mt k) (readWord (if k.val < 623 then mt else twistArray mt) (indexPlus k 1)) := by
  rw [readWord_twistArray_eq_prefix, twistWord]
  have hk := k.isLt
  have h0 : readWord (twistPrefix k.val (Nat.le_of_lt k.isLt) mt) k = readWord mt k := by
    rw [readWord_twistPrefix, if_neg (Nat.lt_irrefl _)]
  have h1 : readWord (twistPrefix k.val (Nat.le_of_lt k.isLt) mt) (indexPlus k 1) =
      readWord (if k.val < 623 then mt else twistArray mt) (indexPlus k 1) := by
    rw [readWord_twistPrefix_final]
    by_cases hc : k.val < 623
    · have : ¬ (indexPlus k 1).val < k.val := by simp only [indexPlus]; omega
      rw [if_neg this, if_pos hc]
    · have : (indexPlus k 1).val < k.val := by simp only [indexPlus]; omega
      rw [if_pos this, if_neg hc]
  have h2 : readWord (twistPrefix k.val (Nat.le_of_lt k.isLt) mt) (indexPlus k twistOffset) =
      readWord (if k.val < 227 then mt else twistArray mt) (indexPlus k 397) := by
    rw [readWord_twistPrefix_final]
    by_cases hc : k.val < 227
    · have : ¬ (indexPlus k twistOffset).val < k.val := by simp only [indexPlus, twistOffset]; omega
      rw [if_neg this, if_pos hc]; rfl
    · have : (indexPlus k twistOffset).val < k.val := by simp only [indexPlus, twistOffset]; omega
      rw [if_pos this, if_neg hc]; rfl
  rw [h0, h1, h2]

end Sys2Proof.Machine
end

