-- ==== Sys2Proof/Laws/Evaluate.lean ====
section
/-! SUPPORT. The whole-array operations as one pass over a list, proved equal to the loops of Machine/Recurrence.lean.
Lean's kernel evaluates these in about a second, where the in-place loops take minutes; the tests go through them. -/

namespace Sys2Proof.Machine

/-- The words of seeding from index `i` on, `n` of them, `prev` being the word before. -/
def seedTail : Nat → Word → Nat → List Word
  | 0, _, _ => []
  | n + 1, prev, i => seedWord prev i :: seedTail n (seedWord prev i) (i + 1)

/-- The seeded array as a list. -/
def seedList (v : Word) : List Word := v :: seedTail 623 v 1

theorem getElem?_seedTail (v : Word) : ∀ (n i k : Nat), k < n →
    (seedTail n (seedSequence v i) (i + 1))[k]? = some (seedSequence v (i + 1 + k))
  | n + 1, i, 0, _ => by simp [seedTail, seedSequence]
  | n + 1, i, k + 1, h => by
    have := getElem?_seedTail v n (i + 1) k (by omega)
    simp only [seedTail, List.getElem?_cons_succ]
    rw [show seedWord (seedSequence v i) (i + 1) = seedSequence v (i + 1) from rfl, this]
    congr 2
    omega

theorem length_seedTail : ∀ (n : Nat) (p : Word) (i : Nat), (seedTail n p i).length = n
  | 0, _, _ => rfl
  | n + 1, p, i => by simp [seedTail, length_seedTail n]

theorem seedArray_toList (v : Word) (mt : MT) : (seedArray v mt).toList = seedList v := by
  apply List.ext_getElem?
  intro i
  by_cases hi : i < 624
  · have h1 : (seedArray v mt).toList[i]? = some (readWord (seedArray v mt) ⟨i, hi⟩) := by
      simp [readWord, hi]
    rw [h1, readWord_seedArray]
    cases i with
    | zero => simp [seedList, seedSequence]
    | succ j =>
      have := getElem?_seedTail v 623 0 j (by omega)
      simp only [seedList, List.getElem?_cons_succ]
      rw [show seedTail 623 v 1 = seedTail 623 (seedSequence v 0) (0 + 1) from rfl, this]
      congr 2
      omega
  · rw [List.getElem?_eq_none (by simp; omega), List.getElem?_eq_none (by simp [seedList, length_seedTail]; omega)]

/-- `n` twist steps along a list: `ahead` gives the words at distance 397, `cur` the words at the step's own index. -/
def mixAlong : Nat → List Word → List Word → List Word
  | 0, _, _ => []
  | n + 1, a :: ahead, h :: l :: cur => (a ^^^ mix h l) :: mixAlong n ahead (l :: cur)
  | _ + 1, [], _ => []
  | _ + 1, _ :: _, [] => []
  | _ + 1, _ :: _, [_] => []

theorem getElem?_mixAlong : ∀ (n k : Nat) (ahead cur : List Word) (a h l : Word), k < n →
    ahead[k]? = some a → cur[k]? = some h → cur[k + 1]? = some l →
    (mixAlong n ahead cur)[k]? = some (a ^^^ mix h l)
  | n + 1, k, [], cur, _, _, _, _, ha, _, _ => by simp at ha
  | n + 1, k, _ :: _, [], _, _, _, _, _, hh, _ => by simp at hh
  | n + 1, k, _ :: _, [_], _, _, _, _, _, _, hl => by simp at hl
  | n + 1, 0, a' :: ahead, h' :: l' :: cur, a, h, l, _, ha, hh, hl => by
    simp at ha hh hl
    subst ha hh hl
    simp [mixAlong]
  | n + 1, k + 1, a' :: ahead, h' :: l' :: cur, a, h, l, hk, ha, hh, hl => by
    simp only [mixAlong, List.getElem?_cons_succ] at ha hh hl ⊢
    exact getElem?_mixAlong n k ahead (l' :: cur) a h l (by omega) ha hh hl

theorem length_mixAlong_le : ∀ (n : Nat) (ahead cur : List Word), (mixAlong n ahead cur).length ≤ n
  | 0, _, _ => by simp [mixAlong]
  | n + 1, a :: ahead, h :: l :: cur => by
    simpa [mixAlong] using length_mixAlong_le n ahead (l :: cur)
  | n + 1, [], _ => by simp [mixAlong]
  | n + 1, _ :: _, [] => by simp [mixAlong]
  | n + 1, _ :: _, [_] => by simp [mixAlong]

/-- The first 227 words of the next generation: every read is of an old word. -/
def twistFirst (o : List Word) : List Word := mixAlong 227 (o.drop 397) o

/-- The next 227: the words at distance 397 are the first 227 new ones. -/
def twistSecond (o : List Word) : List Word := mixAlong 227 (twistFirst o) (o.drop 227)

/-- The last 170, where the step at 623 reads the new word 0 as its neighbour. -/
def twistThird (o : List Word) : List Word :=
  mixAlong 170 (twistSecond o) (o.drop 454 ++ (twistFirst o).take 1)

/-- The next generation as a list. -/
def twistList (o : List Word) : List Word := twistFirst o ++ (twistSecond o ++ twistThird o)

theorem getElem?_toList (mt : MT) (i : Nat) (hi : i < 624) : mt.toList[i]? = some (readWord mt ⟨i, hi⟩) := by
  simp [readWord, hi]

theorem getElem?_twistFirst (mt : MT) (k : Nat) (hk : k < 227) :
    (twistFirst mt.toList)[k]? = some (readWord (twistArray mt) ⟨k, by omega⟩) := by
  rw [readWord_twistArray, if_pos (show k < 227 from hk), if_pos (show k < 623 by omega)]
  refine getElem?_mixAlong 227 k _ _ _ _ _ hk ?_ ?_ ?_
  · rw [List.getElem?_drop, getElem?_toList mt _ (by omega)]
    congr 2; apply Fin.ext; simp only [indexPlus]; omega
  · exact getElem?_toList mt k (by omega)
  · rw [getElem?_toList mt _ (by omega)]
    congr 2; apply Fin.ext; simp only [indexPlus]; omega

theorem getElem?_twistSecond (mt : MT) (k : Nat) (hk : k < 227) :
    (twistSecond mt.toList)[k]? = some (readWord (twistArray mt) ⟨227 + k, by omega⟩) := by
  rw [readWord_twistArray, if_neg (show ¬ 227 + k < 227 by omega), if_pos (show 227 + k < 623 by omega)]
  refine getElem?_mixAlong 227 k _ _ _ _ _ hk ?_ ?_ ?_
  · rw [getElem?_twistFirst mt k hk]
    congr 2; apply Fin.ext; simp only [indexPlus]; omega
  · rw [List.getElem?_drop, getElem?_toList mt _ (by omega)]
  · rw [List.getElem?_drop, getElem?_toList mt _ (by omega)]
    congr 2; apply Fin.ext; simp only [indexPlus]; omega

theorem getElem?_twistThird (mt : MT) (k : Nat) (hk : k < 170) :
    (twistThird mt.toList)[k]? = some (readWord (twistArray mt) ⟨454 + k, by omega⟩) := by
  have hlen : (mt.toList.drop 454).length = 170 := by simp
  rw [readWord_twistArray, if_neg (show ¬ 454 + k < 227 by omega)]
  refine getElem?_mixAlong 170 k _ _ _ _ _ hk ?_ ?_ ?_
  · rw [getElem?_twistSecond mt k (by omega)]
    congr 2; apply Fin.ext; simp only [indexPlus]; omega
  · rw [List.getElem?_append_left (by omega), List.getElem?_drop, getElem?_toList mt _ (by omega)]
  · by_cases hc : 454 + k < 623
    · rw [if_pos hc, List.getElem?_append_left (by omega), List.getElem?_drop, getElem?_toList mt _ (by omega)]
      congr 2; apply Fin.ext; simp only [indexPlus]; omega
    · have hk169 : k = 169 := by omega
      subst hk169
      rw [if_neg hc, List.getElem?_append_right (by omega), hlen,
        List.getElem?_take_of_lt (by omega), getElem?_twistFirst mt _ (by omega)]
      congr 2; apply Fin.ext; simp only [indexPlus]

theorem twistArray_toList (mt : MT) : (twistArray mt).toList = twistList mt.toList := by
  have len1 : (twistFirst mt.toList).length = 227 := by
    have hle : (twistFirst mt.toList).length ≤ 227 := length_mixAlong_le _ _ _
    have := getElem?_twistFirst mt 226 (by omega)
    have := (List.getElem?_eq_some_iff.mp this).1
    omega
  have len2 : (twistSecond mt.toList).length = 227 := by
    have hle : (twistSecond mt.toList).length ≤ 227 := length_mixAlong_le _ _ _
    have := getElem?_twistSecond mt 226 (by omega)
    have := (List.getElem?_eq_some_iff.mp this).1
    omega
  have len3 : (twistThird mt.toList).length ≤ 170 := length_mixAlong_le _ _ _
  apply List.ext_getElem?
  intro i
  by_cases hi : i < 624
  · rw [getElem?_toList _ i hi, twistList]
    by_cases h1 : i < 227
    · rw [List.getElem?_append_left (by omega), getElem?_twistFirst mt i h1]
    · rw [List.getElem?_append_right (by omega)]
      by_cases h2 : i < 454
      · rw [List.getElem?_append_left (by omega), getElem?_twistSecond mt _ (by omega)]
        congr 2; apply Fin.ext; simp only; omega
      · rw [List.getElem?_append_right (by omega), getElem?_twistThird mt _ (by omega)]
        congr 2; apply Fin.ext; simp only; omega
  · rw [List.getElem?_eq_none (by simp; omega), List.getElem?_eq_none (by simp [twistList]; omega)]

/-- One word of a seeded array, read from the list. -/
theorem readWord_seedArray_eval (v : Word) (mt : MT) (k : Index) (w : Word) (h : (seedList v)[k.val]? = some w) :
    readWord (seedArray v mt) k = w := by
  rw [← seedArray_toList v mt, getElem?_toList _ _ k.isLt] at h
  exact Option.some.inj h

/-- One word of a twisted array, read from the list. -/
theorem readWord_twistArray_eval (mt : MT) (k : Index) (w : Word) (h : (twistList mt.toList)[k.val]? = some w) :
    readWord (twistArray mt) k = w := by
  rw [← twistArray_toList, getElem?_toList _ _ k.isLt] at h
  exact Option.some.inj h

end Sys2Proof.Machine
end

