-- ==== Sys2Proof/Laws/State.lean ====
section
/-! SUPPORT. One lemma per field per update of State, and the outcome of each answering operation. -/

namespace Sys2Proof.Machine

@[simp] theorem respond_mt (r : Response) (s : State) : (respond r s).mt = s.mt := rfl
@[simp] theorem respond_idx (r : Response) (s : State) : (respond r s).idx = s.idx := rfl
@[simp] theorem respond_cmdPort (r : Response) (s : State) : (respond r s).cmdPort = s.cmdPort := rfl
@[simp] theorem respond_respPort (r : Response) (s : State) :
    (respond r s).respPort = s.respPort ++ r.words := rfl

@[simp] theorem loadArray_mt (mt : MT) (s : State) : (loadArray mt s).mt = mt := rfl
@[simp] theorem loadArray_idx (mt : MT) (s : State) : (loadArray mt s).idx = 624 := rfl
@[simp] theorem loadArray_cmdPort (mt : MT) (s : State) : (loadArray mt s).cmdPort = s.cmdPort := rfl
@[simp] theorem loadArray_respPort (mt : MT) (s : State) : (loadArray mt s).respPort = s.respPort := rfl

@[simp] theorem twist_mt (s : State) : (twist s).mt = twistArray s.mt := rfl
@[simp] theorem twist_idx (s : State) : (twist s).idx = 0 := rfl
@[simp] theorem twist_cmdPort (s : State) : (twist s).cmdPort = s.cmdPort := rfl
@[simp] theorem twist_respPort (s : State) : (twist s).respPort = s.respPort := rfl

@[simp] theorem advance_mt (s : State) : (advance s).mt = (readyArray s).1 := rfl
@[simp] theorem advance_idx (s : State) : (advance s).idx = (readyArray s).2.succ := rfl
@[simp] theorem advance_cmdPort (s : State) : (advance s).cmdPort = s.cmdPort := rfl
@[simp] theorem advance_respPort (s : State) : (advance s).respPort = s.respPort := rfl

@[simp] theorem resetBlock_mt (s : State) : (resetBlock s).mt = seedArray defaultSeed s.mt := rfl
@[simp] theorem resetBlock_idx (s : State) : (resetBlock s).idx = 624 := rfl
@[simp] theorem resetBlock_cmdPort (s : State) : (resetBlock s).cmdPort = s.cmdPort := rfl
@[simp] theorem resetBlock_respPort (s : State) : (resetBlock s).respPort = s.respPort := rfl

@[simp] theorem takePacket_mt (rest : List Word) (after : List PortItem) (s : State) :
    (takePacket rest after s).mt = s.mt := rfl
@[simp] theorem takePacket_idx (rest : List Word) (after : List PortItem) (s : State) :
    (takePacket rest after s).idx = s.idx := rfl
@[simp] theorem takePacket_cmdPort (rest : List Word) (after : List PortItem) (s : State) :
    (takePacket rest after s).cmdPort = rest.map .word ++ after := rfl
@[simp] theorem takePacket_respPort (rest : List Word) (after : List PortItem) (s : State) :
    (takePacket rest after s).respPort = s.respPort := rfl

@[simp] theorem withFetchWord_mt (s : State) (nbits w : Nat) : (s.withFetchWord nbits w).mt = s.mt := rfl
@[simp] theorem withFetchWord_idx (s : State) (nbits w : Nat) : (s.withFetchWord nbits w).idx = s.idx := rfl
@[simp] theorem withFetchWord_cmdPort (s : State) (nbits w : Nat) :
    (s.withFetchWord nbits w).cmdPort = (tablePacket nbits w).map .word ++ s.cmdPort := rfl
@[simp] theorem withFetchWord_respPort (s : State) (nbits w : Nat) :
    (s.withFetchWord nbits w).respPort = s.respPort := rfl

theorem respondOk_eq (s : State) : respondOk s = .next (respond .ok s) := rfl
theorem respondWord_eq (v : Word) (s : State) : respondWord v s = .next (respond (.okWord v) s) := rfl
theorem raise_eq (e : CommandError) (s : State) : raise e s = .next (respond (.error e) s) := rfl

@[simp] theorem words_ok : Response.words .ok = [0x00000000#32] := by decide
@[simp] theorem words_okWord (v : Word) : Response.words (.okWord v) = [0x00000001#32, v] := by
  simp only [Response.words, Response.status, Response.data, List.length_singleton]
  congr 1
@[simp] theorem words_invalidSeed : Response.words (.error .invalidSeed) = [0x01000000#32] := by decide
@[simp] theorem words_invalidReconstructionInput :
    Response.words (.error .invalidReconstructionInput) = [0x02000000#32] := by decide
@[simp] theorem words_unsupportedBitWidth :
    Response.words (.error .unsupportedBitWidth) = [0x03000000#32] := by decide
@[simp] theorem words_illegalCommand : Response.words (.error .illegalCommand) = [0x04000000#32] := by decide

end Sys2Proof.Machine
end

