-- ==== Sys2Proof/Laws/Exec.lean ====
section
/-! SUPPORT. What each command can do, once: an error answered with nothing else changed, or its own effect. And the
operands it takes. -/

namespace Sys2Proof.Machine

theorem seedOperand_eq_none (p : List Word) : seedOperand p = none ↔ 2 ≤ p.length := by
  rcases p with _ | ⟨a, _ | ⟨b, p⟩⟩ <;> simp [seedOperand]

theorem seedOperand_eq_some (p : List Word) (v : Word) :
    seedOperand p = some v ↔ (p = [] ∧ 0 = v) ∨ p = [v] := by
  rcases p with _ | ⟨a, _ | ⟨b, p⟩⟩ <;> simp [seedOperand, defaultSeed]

theorem wordOperand_eq_none (p : List Word) : wordOperand p = none ↔ p.length ≠ 1 := by
  rcases p with _ | ⟨a, _ | ⟨b, p⟩⟩ <;> simp [wordOperand]

theorem wordOperand_eq_some (p : List Word) (x : Word) : wordOperand p = some x ↔ p = [x] := by
  rcases p with _ | ⟨a, _ | ⟨b, p⟩⟩ <;> simp [wordOperand]

theorem observedOperand_eq_none (p : List Word) : observedOperand p = none ↔ p.length ≠ 624 := by
  unfold observedOperand
  split <;> simp_all

/-- Word `k` of the observed outputs is payload word `k` (R64 d). -/
theorem observedOperand_eq_some (p : List Word) (o : MT) (h : observedOperand p = some o) :
    p.length = 624 ∧ ∀ k : Index, p[k.val]? = some (readWord o k) := by
  unfold observedOperand at h
  split at h
  · rename_i hl
    simp only [Option.some.injEq] at h
    subst h
    exact ⟨hl, fun k => by simp [readWord, hl]⟩
  · simp at h

/-! What each meaning answers, form by form (R156: the checks in order). -/

theorem execSeed_of_arg (arg : Octet) (p : List Word) (s : State) (h : arg ≠ 0#8) :
    execSeed arg p s = .next (respond (.error .illegalCommand) s) := by
  unfold execSeed; rw [if_pos h]; rfl

theorem execSeed_of_wide (p : List Word) (s : State) (h : 2 ≤ p.length) :
    execSeed 0#8 p s = .next (respond (.error .invalidSeed) s) := by
  unfold execSeed; rw [if_neg (by simp), (seedOperand_eq_none p).mpr h]; rfl

theorem execSeed_of_operand (p : List Word) (v : Word) (s : State) (h : seedOperand p = some v) :
    execSeed 0#8 p s = .next (respond .ok (loadArray (seedArray v s.mt) s)) := by
  unfold execSeed; rw [if_neg (by simp), h]; rfl

theorem execNext_of_payload (arg : Octet) (p : List Word) (s : State) (h : p.length ≠ 0) :
    execNext arg p s = .next (respond (.error .illegalCommand) s) := by
  unfold execNext; rw [if_pos h]; rfl

theorem execNext_of_width (arg : Octet) (s : State) (h : arg ≠ 32#8) :
    execNext arg [] s = .next (respond (.error .unsupportedBitWidth) s) := by
  unfold execNext; rw [if_neg (by simp), if_pos (by simpa [outputWidth] using h)]; rfl

theorem execNext_of_legal (s : State) :
    execNext 32#8 [] s = .next (respond (.okWord (temper (selectedWord s))) (advance s)) := by
  unfold execNext; rw [if_neg (by simp), if_neg (by simp [outputWidth])]; rfl

theorem execReconstruct_of_arg (arg : Octet) (p : List Word) (s : State) (h : arg ≠ 0#8) :
    execReconstruct arg p s = .next (respond (.error .illegalCommand) s) := by
  unfold execReconstruct; rw [if_pos h]; rfl

theorem execReconstruct_of_length (p : List Word) (s : State) (h : p.length ≠ 624) :
    execReconstruct 0#8 p s = .next (respond (.error .invalidReconstructionInput) s) := by
  unfold execReconstruct; rw [if_neg (by simp), (observedOperand_eq_none p).mpr h]; rfl

theorem execReconstruct_of_operand (p : List Word) (o : MT) (s : State) (h : observedOperand p = some o) :
    execReconstruct 0#8 p s = .next (respond .ok (loadArray (reconstructArray o s.mt) s)) := by
  unfold execReconstruct; rw [if_neg (by simp), h]; rfl

theorem execTemper_of_illegal (arg : Octet) (p : List Word) (s : State) (h : arg ≠ 0#8 ∨ p.length ≠ 1) :
    execTemper arg p s = .next (respond (.error .illegalCommand) s) := by
  unfold execTemper
  by_cases ha : arg = 0#8
  · rw [if_neg (not_not.mpr ha), (wordOperand_eq_none p).mpr (h.resolve_left (not_not.mpr ha))]; rfl
  · rw [if_pos ha]; rfl

theorem execTemper_of_legal (x : Word) (s : State) :
    execTemper 0#8 [x] s = .next (respond (.okWord (temper x)) s) := by
  unfold execTemper; rw [if_neg (by simp)]; rfl

theorem execUntemper_of_illegal (arg : Octet) (p : List Word) (s : State) (h : arg ≠ 0#8 ∨ p.length ≠ 1) :
    execUntemper arg p s = .next (respond (.error .illegalCommand) s) := by
  unfold execUntemper
  by_cases ha : arg = 0#8
  · rw [if_neg (not_not.mpr ha), (wordOperand_eq_none p).mpr (h.resolve_left (not_not.mpr ha))]; rfl
  · rw [if_pos ha]; rfl

theorem execUntemper_of_legal (y : Word) (s : State) :
    execUntemper 0#8 [y] s = .next (respond (.okWord (untemper y)) s) := by
  unfold execUntemper; rw [if_neg (by simp)]; rfl

theorem execTwist_of_illegal (arg : Octet) (p : List Word) (s : State) (h : arg ≠ 0#8 ∨ p.length ≠ 0) :
    execTwist arg p s = .next (respond (.error .illegalCommand) s) := by
  unfold execTwist; rw [if_pos h]; rfl

theorem execTwist_of_legal (s : State) : execTwist 0#8 [] s = .next (respond .ok (twist s)) := by
  unfold execTwist; rw [if_neg (by simp)]; rfl

/-! The same, as one inversion per meaning: an error with nothing else changed, or the command's own effect. -/

theorem execSeed_cases (arg : Octet) (p : List Word) (s : State) :
    (∃ e, execSeed arg p s = .next (respond (.error e) s)) ∨
    (∃ v, arg = 0#8 ∧ seedOperand p = some v ∧
      execSeed arg p s = .next (respond .ok (loadArray (seedArray v s.mt) s))) := by
  unfold execSeed
  split
  · exact .inl ⟨_, rfl⟩
  · rename_i ha
    split
    · exact .inl ⟨_, rfl⟩
    · rename_i v hv
      exact .inr ⟨v, by simpa using ha, hv, rfl⟩

theorem execNext_cases (arg : Octet) (p : List Word) (s : State) :
    (∃ e, execNext arg p s = .next (respond (.error e) s)) ∨
    (arg = outputWidth ∧ p = [] ∧
      execNext arg p s = .next (respond (.okWord (temper (selectedWord s))) (advance s))) := by
  unfold execNext
  split
  · exact .inl ⟨_, rfl⟩
  · rename_i hp
    split
    · exact .inl ⟨_, rfl⟩
    · rename_i ha
      exact .inr ⟨by simpa using ha, by simpa using hp, rfl⟩

theorem execReconstruct_cases (arg : Octet) (p : List Word) (s : State) :
    (∃ e, execReconstruct arg p s = .next (respond (.error e) s)) ∨
    (∃ o, arg = 0#8 ∧ observedOperand p = some o ∧
      execReconstruct arg p s = .next (respond .ok (loadArray (reconstructArray o s.mt) s))) := by
  unfold execReconstruct
  split
  · exact .inl ⟨_, rfl⟩
  · rename_i ha
    split
    · exact .inl ⟨_, rfl⟩
    · rename_i o ho
      exact .inr ⟨o, by simpa using ha, ho, rfl⟩

theorem execTemper_cases (arg : Octet) (p : List Word) (s : State) :
    (∃ e, execTemper arg p s = .next (respond (.error e) s)) ∨
    (∃ x, arg = 0#8 ∧ p = [x] ∧ execTemper arg p s = .next (respond (.okWord (temper x)) s)) := by
  unfold execTemper
  split
  · exact .inl ⟨_, rfl⟩
  · rename_i ha
    split
    · exact .inl ⟨_, rfl⟩
    · rename_i x hx
      exact .inr ⟨x, by simpa using ha, (wordOperand_eq_some p x).mp hx, rfl⟩

theorem execUntemper_cases (arg : Octet) (p : List Word) (s : State) :
    (∃ e, execUntemper arg p s = .next (respond (.error e) s)) ∨
    (∃ y, arg = 0#8 ∧ p = [y] ∧ execUntemper arg p s = .next (respond (.okWord (untemper y)) s)) := by
  unfold execUntemper
  split
  · exact .inl ⟨_, rfl⟩
  · rename_i ha
    split
    · exact .inl ⟨_, rfl⟩
    · rename_i y hy
      exact .inr ⟨y, by simpa using ha, (wordOperand_eq_some p y).mp hy, rfl⟩

theorem execTwist_cases (arg : Octet) (p : List Word) (s : State) :
    (∃ e, execTwist arg p s = .next (respond (.error e) s)) ∨
    (arg = 0#8 ∧ p = [] ∧ execTwist arg p s = .next (respond .ok (twist s))) := by
  unfold execTwist
  split
  · exact .inl ⟨_, rfl⟩
  · rename_i h
    simp only [not_or, not_not] at h
    exact .inr ⟨h.1, by simpa using h.2, rfl⟩

/-- The array and index an output is selected from, below 624 and at 624 (R140). -/
theorem readyArray_of_lt (s : State) (h : s.idx.val < 624) : readyArray s = (s.mt, ⟨s.idx.val, h⟩) := by
  unfold readyArray
  rw [dif_pos h]

theorem readyArray_of_exhausted (s : State) (h : s.idx.val = 624) : readyArray s = (twistArray s.mt, 0) := by
  unfold readyArray
  rw [dif_neg (by omega)]

end Sys2Proof.Machine
end

