-- ==== Sys2Proof/Laws/PerInstr.lean ====
section
/-! SUPPORT. One family of facts about each command as syntax: the length of its packet (spec/30_encoding.md R60: "The
length of a packet in words is always `1 + LEN`, whatever `OP` and `ARG` are and whether or not the command is legal"). -/

namespace Sys2Proof.Laws.PacketLength

/-- A command's packet is its header and its payload, and nothing else. -/
def Statement (i : Instr) : Prop := (encode i).length = 1 + i.payload.length ∧ (encode i).tail = i.payload

theorem of_encode (i : Instr) : Statement i := by
  simp [Statement, encode, Nat.add_comm]

theorem seed (arg : Octet) (payload : List Word) : Statement (.seed arg payload) := of_encode _
theorem next (arg : Octet) (payload : List Word) : Statement (.next arg payload) := of_encode _
theorem reconstruct (arg : Octet) (payload : List Word) : Statement (.reconstruct arg payload) := of_encode _
theorem temper (arg : Octet) (payload : List Word) : Statement (.temper arg payload) := of_encode _
theorem untemper (arg : Octet) (payload : List Word) : Statement (.untemper arg payload) := of_encode _
theorem twist (arg : Octet) (payload : List Word) : Statement (.twist arg payload) := of_encode _

end Sys2Proof.Laws.PacketLength
end

