-- ==== Sys2Proof/Laws/Step.lean ====
section
/-! SUPPORT. The command port, and what one step can do: one of three things, each named once. -/

namespace Sys2Proof.Machine

@[simp] theorem presentedWords_nil : presentedWords [] = ([], []) := rfl
@[simp] theorem presentedWords_reset (items : List PortItem) :
    presentedWords (.reset :: items) = ([], .reset :: items) := rfl
@[simp] theorem presentedWords_word (w : Word) (items : List PortItem) :
    presentedWords (.word w :: items) = (w :: (presentedWords items).1, (presentedWords items).2) := rfl

/-- The words of a packet are read off the port before whatever follows them. -/
theorem presentedWords_append (ws : List Word) (items : List PortItem) :
    presentedWords (ws.map .word ++ items) = (ws ++ (presentedWords items).1, (presentedWords items).2) := by
  induction ws with
  | nil => rfl
  | cons w ws ih => simp [ih]

/-- Nothing presented is lost or reordered (R47). -/
theorem presentedWords_join (items : List PortItem) :
    (presentedWords items).1.map .word ++ (presentedWords items).2 = items := by
  induction items with
  | nil => rfl
  | cons x items ih => cases x <;> simp [ih]

theorem step_of_idle (s : State) (h : s.cmdPort = []) : step s = .refused .noCommand := by
  simp [step, h]

theorem step_of_reset (s : State) (items : List PortItem) (h : s.cmdPort = .reset :: items) :
    step s = .next (resetBlock { s with cmdPort := items }) := by
  unfold step
  rw [h]

theorem step_of_words (s : State) (w : Word) (items : List PortItem) (h : s.cmdPort = .word w :: items) :
    step s = stepPacket s := by
  simp [step, h]

/-- Everything a step that goes on can have done: applied a reset, executed a command, or refused an unknown `OP`. -/
theorem step_next_cases (s t : State) (h : step s = .next t) :
    (∃ items, s.cmdPort = .reset :: items ∧ t = resetBlock { s with cmdPort := items }) ∨
    (∃ i rest, decode (presentedWords s.cmdPort).1 = .command i rest ∧
      exec i (takePacket rest (presentedWords s.cmdPort).2 s) = .next t) ∨
    (∃ op rest, decode (presentedWords s.cmdPort).1 = .unknownOp op rest ∧
      t = respond (.error .illegalCommand) (takePacket rest (presentedWords s.cmdPort).2 s)) := by
  unfold step at h
  split at h
  · simp at h
  · rename_i items heq
    exact .inl ⟨items, heq, by simpa using h.symm⟩
  · unfold stepPacket at h
    split at h
    · rename_i i rest heq
      exact .inr (.inl ⟨i, rest, heq, h⟩)
    · rename_i op rest heq
      exact .inr (.inr ⟨op, rest, heq, by simpa [raise_eq] using h.symm⟩)
    · split at h <;> simp at h

end Sys2Proof.Machine
end

