-- ==== Sys2Proof/Tests/Slice0.lean ====
section
/-! SUPPORT. The model's own tests. Expected values are the spec's: each theorem names the rule or the section of
spec/95_test_vectors.md they come from. After them, one witness for each obligation's hypotheses. -/

namespace Sys2Proof.Tests

open Sys2Proof Sys2Proof.Machine

/-! ## Helpers -/

/-- A block with the given cursor whose array is zero. -/
def blank (idx : Cursor) : State := { mt := zeroArray, idx := idx, cmdPort := [], respPort := [] }

/-- The same block with these words presented. -/
def presenting (ws : List Word) : State := { blank 624 with cmdPort := ws.map .word }

/-- What a step leaves outside the array: the response stream, the words still presented, the cursor. -/
def afterStep (s : State) : Option (List Word × List PortItem × Nat) :=
  match step s with
  | .next t => some (t.respPort, t.cmdPort, t.idx.val)
  | .fault _ => none
  | .refused _ => none

/-- The packet is refused with this header, the cursor still 624, the word presented after it untouched. -/
def refusedWith (header : Word) (packet : List Word) : Bool :=
  decide (afterStep (presenting (packet ++ [0xabcd0123#32])) = some ([header], [.word 0xabcd0123#32], 624))

/-- Payload words of any value: here zeros. -/
def z (n : Nat) : List Word := List.replicate n 0#32

theorem length_z (n : Nat) : (z n).length = n := List.length_replicate

def xorAll (ws : List Word) : Word := ws.foldl (· ^^^ ·) 0#32
def sumAll (ws : List Word) : Word := ws.foldl (· + ·) 0#32

/-! ## Well-formedness: a payload of 65536 words has no packet (R60) -/

theorem test_wellFormed_refuses_65536_words :
    (Instr.seed 0#8 (z 65536)).wellFormed = false ∧ (Instr.next 32#8 (z 65536)).wellFormed = false ∧
    (Instr.reconstruct 0#8 (z 65536)).wellFormed = false ∧ (Instr.temper 0#8 (z 65536)).wellFormed = false ∧
    (Instr.untemper 0#8 (z 65536)).wellFormed = false ∧ (Instr.twist 0#8 (z 65536)).wellFormed = false := by
  simp [Instr.wellFormed, Instr.payload, length_z]

theorem test_wellFormed_takes_65535_words : (Instr.seed 0#8 (z 65535)).wellFormed = true := by
  simp [Instr.wellFormed, Instr.payload, length_z]

/-- R63: each check of `legal` has a packet it refuses. -/
theorem test_legal_refuses :
    (Instr.seed 1#8 []).legal = false ∧ (Instr.seed 0#8 (z 2)).legal = false ∧
    (Instr.next 33#8 []).legal = false ∧ (Instr.next 32#8 (z 1)).legal = false ∧
    (Instr.reconstruct 1#8 (z 624)).legal = false ∧ (Instr.reconstruct 0#8 (z 623)).legal = false ∧
    (Instr.temper 1#8 (z 1)).legal = false ∧ (Instr.temper 0#8 []).legal = false ∧
    (Instr.untemper 1#8 (z 1)).legal = false ∧ (Instr.untemper 0#8 (z 2)).legal = false ∧
    (Instr.twist 1#8 []).legal = false ∧ (Instr.twist 0#8 (z 1)).legal = false := by
  simp [Instr.legal, length_z]

/-! ## Decoding: the headers written out from R60 and R62 -/

/-- OP = 0000 0001, ARG = 0000 0000, LEN = 0 and 1 (R90). -/
theorem test_decode_seed :
    decode [0b00000001000000000000000000000000#32] = .command (.seed 0#8 []) [] ∧
    decode [0b00000001000000000000000000000001#32, 0xdeadbeef#32, 7#32] =
      .command (.seed 0#8 [0xdeadbeef#32]) [7#32] := by decide

/-- OP = 0000 0010, ARG = 0010 0000 (R140). -/
theorem test_decode_next :
    decode [0b00000010001000000000000000000000#32] = .command (.next 32#8 []) [] ∧
    decode [0b00000010000100000000000000000001#32, 0#32] = .command (.next 16#8 [0#32]) [] := by decide

/-- OP = 0000 0011, LEN = 0000 0010 0111 0000 = 624 (R130). -/
theorem test_decode_reconstruct :
    decode (0b00000011000000000000001001110000#32 :: z 624) = .command (.reconstruct 0#8 (z 624)) [] ∧
    decode (0b00000011000000000000001001110000#32 :: z 623) = .incomplete := by decide +kernel

/-- OP = 0000 0100, LEN = 1 (R110). -/
theorem test_decode_temper :
    decode [0b00000100000000000000000000000001#32, 0x12345678#32] = .command (.temper 0#8 [0x12345678#32]) [] := by
  decide

/-- OP = 0000 0101, LEN = 1 (R120). -/
theorem test_decode_untemper :
    decode [0b00000101000000000000000000000001#32, 0xffffffff#32] = .command (.untemper 0#8 [0xffffffff#32]) [] := by
  decide

/-- OP = 0000 0110, LEN = 0 (R104). -/
theorem test_decode_twist :
    decode [0b00000110000000000000000000000000#32] = .command (.twist 0#8 []) [] := by decide

/-- R62, R66 a: 0x00 and 0x07..0xff name no command; the payload goes with the header (R65). -/
theorem test_decode_unknown :
    decode [0x00000000#32] = .unknownOp 0x00#8 [] ∧ decode [0x07000000#32] = .unknownOp 0x07#8 [] ∧
    decode [0xff000001#32, 1#32, 2#32] = .unknownOp 0xff#8 [2#32] := by decide

/-- R67: no header, and a packet that stops short. -/
theorem test_decode_incomplete :
    decode [] = .incomplete ∧ decode [0x04000001#32] = .incomplete ∧ decode [0x0100ffff#32, 1#32] = .incomplete := by
  decide +kernel

/-- R60, R68: the packets of the six legal commands. -/
theorem test_encode :
    encode (.seed 0#8 []) = [0x01000000#32] ∧ encode (.seed 0#8 [5#32]) = [0x01000001#32, 5#32] ∧
    encode (.next 32#8 []) = [0x02200000#32] ∧ encode (.reconstruct 0#8 (z 624)) = 0x03000270#32 :: z 624 ∧
    encode (.temper 0#8 [5#32]) = [0x04000001#32, 5#32] ∧ encode (.untemper 0#8 [5#32]) = [0x05000001#32, 5#32] ∧
    encode (.twist 0#8 []) = [0x06000000#32] := by decide +kernel

/-- spec/opcode_table.json: each row's match word, and a header with a payload of zeros. -/
theorem test_decodeTableWord :
    decodeTableWord 32 0x01000000 = some (.seed 0#8 []) ∧ decodeTableWord 32 0x02000000 = some (.next 0#8 []) ∧
    decodeTableWord 32 0x03000000 = some (.reconstruct 0#8 []) ∧
    decodeTableWord 32 0x04000001 = some (.temper 0#8 [0#32]) ∧
    decodeTableWord 32 0x05000000 = some (.untemper 0#8 []) ∧ decodeTableWord 32 0x06000000 = some (.twist 0#8 []) ∧
    decodeTableWord 64 0xdeadbeef01000001 = some (.seed 0#8 [0xdeadbeef#32]) ∧
    decodeTableWord 32 0x07000000 = none := by decide

/-- `withFetchWord` makes the very next step run that packet, whatever is presented after it. -/
theorem test_withFetchWord :
    afterStep ((presenting [0x06000000#32]).withFetchWord 32 0x04000001) =
      some ([0x00000001#32, 0x00000000#32], [.word 0x06000000#32], 624) ∧
    afterStep ((presenting []).withFetchWord 32 0x06000000) = some ([0x00000000#32], [], 0) ∧
    afterStep ((presenting []).withFetchWord 32 0x01000001) = some ([0x00000000#32], [], 624) := by decide +kernel

/-! ## Errors: spec/95_test_vectors.md, program P4 (each packet on the port, the cursor at 624) -/

theorem test_next_refused :
    refusedWith 0x03000000#32 [0x02100000#32] ∧ refusedWith 0x03000000#32 [0x02400000#32] ∧
    refusedWith 0x03000000#32 [0x02000000#32] ∧ refusedWith 0x03000000#32 [0x02210000#32] ∧
    refusedWith 0x03000000#32 [0x021f0000#32] ∧ refusedWith 0x04000000#32 (0x02100001#32 :: z 1) := by decide +kernel

theorem test_reconstruct_refused :
    refusedWith 0x02000000#32 (0x0300026f#32 :: z 623) ∧ refusedWith 0x02000000#32 (0x03000271#32 :: z 625) ∧
    refusedWith 0x02000000#32 [0x03000000#32] ∧ refusedWith 0x04000000#32 (0x03010270#32 :: z 624) := by
  decide +kernel

theorem test_seed_refused :
    refusedWith 0x01000000#32 (0x01000002#32 :: z 2) ∧ refusedWith 0x04000000#32 [0x01010000#32] ∧
    refusedWith 0x04000000#32 (0x01010002#32 :: z 2) := by decide +kernel

theorem test_unknown_refused :
    refusedWith 0x04000000#32 [0x00000000#32] ∧ refusedWith 0x04000000#32 [0x07000000#32] ∧
    refusedWith 0x04000000#32 [0xff000000#32] ∧ refusedWith 0x04000000#32 (0x00ff0002#32 :: z 2) := by decide +kernel

theorem test_temper_refused :
    refusedWith 0x04000000#32 [0x04000000#32] ∧ refusedWith 0x04000000#32 (0x04000002#32 :: z 2) := by decide +kernel

theorem test_untemper_refused :
    refusedWith 0x04000000#32 (0x05010001#32 :: z 1) ∧ refusedWith 0x04000000#32 [0x05000000#32] := by decide +kernel

theorem test_twist_refused :
    refusedWith 0x04000000#32 (0x06000001#32 :: z 1) ∧ refusedWith 0x04000000#32 [0x06010000#32] := by decide +kernel

/-- R67, R181: the three ways in which there is no step. -/
theorem test_no_step :
    step (presenting []) = .refused .noCommand ∧ step (presenting [0x04000001#32]) = .refused .incompletePacket ∧
    step { blank 624 with cmdPort := [.word 0x04000001#32, .reset, .word 5#32] } = .refused .resetInsidePacket := by
  refine ⟨rfl, rfl, rfl⟩

/-- R70, R150: the textual form of a response. -/
theorem test_response_text :
    Response.text .ok = "OK" ∧ Response.text (.okWord 0x8c7f0aac#32) = "OK 0x8c7f0aac" ∧
    Response.text (.error .invalidSeed) = "ERR InvalidSeed" := by decide +kernel

/-! ## Tempering: spec/95_test_vectors.md sections 2.3 and 2.4, program P2 -/

theorem test_temper_vectors :
    temper 0x7fffffff#32 = 0xe7f039fc#32 ∧ temper 0xdeadbeef#32 = 0xe016575d#32 ∧
    temper 0xaaaaaaaa#32 = 0x7315b5ba#32 ∧ temper 0x9b0afa27#32 = 0xd091bb5c#32 ∧
    temperStep2 0xdeb66b58#32 = 0xc7926f58#32 ∧ temperStep3 0xc7926f58#32 = 0xe0166f58#32 := by decide +kernel

theorem test_temper_step :
    afterStep (presenting [0x04000001#32, 0x12345678#32]) = some ([0x00000001#32, 0x2b7e4a2d#32], [], 624) ∧
    afterStep (presenting [0x04000001#32, 0x12dd9bb3#32]) = some ([0x00000001#32, 0xffffffff#32], [], 624) := by
  decide +kernel

theorem test_untemper_vectors :
    untemper 0x7fffffff#32 = 0x92cdb9b7#32 ∧ untemper 0xdeadbeef#32 = 0x8f3a6c09#32 ∧
    untemper 0xaaaaaaaa#32 = 0x7fa574ae#32 ∧ untemper 0xd091bb5c#32 = 0x9b0afa27#32 ∧
    invRight 0xdeadbeef#32 18 = 0xdead8944#32 ∧ invLeft 0x1a2f8944#32 7 0x9d2c5680#32 = 0x8f2b8b44#32 := by
  decide +kernel

theorem test_untemper_step :
    afterStep (presenting [0x05000001#32, 0x2b7e4a2d#32]) = some ([0x00000001#32, 0x12345678#32], [], 624) ∧
    afterStep (presenting [0x05000001#32, 0xffffffff#32]) = some ([0x00000001#32, 0x12dd9bb3#32], [], 624) := by
  decide +kernel

/-! ## Seeding and reset: section 2.1 -/

theorem test_seed_ffffffff : ∃ t, exec (.seed 0#8 [0xffffffff#32]) (blank 3) = .next t ∧ t.idx.val = 624 ∧
    t.respPort = [0x00000000#32] ∧ t.mt.toList.take 3 = [0xffffffff#32, 0x4fe1da6d#32, 0xeaf2f89e#32] ∧
    t.mt.toList.drop 622 = [0x3437e62d#32, 0xcb76e730#32] ∧
    xorAll t.mt.toList = 0x1bf600d4#32 ∧ sumAll t.mt.toList = 0x8862150e#32 := by
  refine ⟨_, execSeed_of_operand [0xffffffff#32] 0xffffffff#32 _ rfl, rfl, by simp [blank], ?_⟩
  simp only [respond_mt, loadArray_mt, seedArray_toList]
  decide +kernel

/-- `SEED` without a payload is seed 0; the state is that of R180, section 2.1, first row. -/
theorem test_seed_default : ∃ t, exec (.seed 0#8 []) (blank 3) = .next t ∧ t.idx.val = 624 ∧
    t.mt.toList.take 5 = [0x00000000#32, 0x00000001#32, 0x6c078967#32, 0x714acb41#32, 0x48077044#32] ∧
    (t.mt.toList.drop 396).take 3 = [0x3c652740#32, 0x08a9bdcd#32, 0xee25986f#32] ∧
    xorAll t.mt.toList = 0x70b3ce2c#32 ∧ sumAll t.mt.toList = 0xf66989ee#32 := by
  refine ⟨_, execSeed_of_operand [] 0#32 _ rfl, rfl, ?_⟩
  simp only [respond_mt, loadArray_mt, seedArray_toList]
  decide +kernel

/-- R181: a reset has no response and takes only itself from the port. -/
theorem test_reset_event :
    ∃ t, step { blank 3 with cmdPort := [.reset, .word 5#32], respPort := [0#32] } = .next t ∧
      t.cmdPort = [.word 5#32] ∧ t.respPort = [0#32] ∧ t.idx.val = 624 ∧ t.mt.toList[1]? = some 1#32 := by
  refine ⟨_, step_of_reset _ _ rfl, rfl, rfl, rfl, ?_⟩
  simp only [resetBlock_mt, seedArray_toList]
  decide +kernel

/-! ## The twist: section 2.2 -/

theorem test_twist_deadbeef : ∀ s, s.mt = seedArray 0xdeadbeef#32 zeroArray → ∃ t, exec (.twist 0#8 []) s = .next t ∧
    t.idx.val = 0 ∧ (t.mt.toList.drop 226).take 3 = [0x00425383#32, 0xd9b5a1ec#32, 0x6e3609f3#32] ∧
    t.mt.toList.drop 622 = [0x7628e85b#32, 0x92d7ee8d#32] ∧
    xorAll t.mt.toList = 0xc0d29ac9#32 ∧ sumAll t.mt.toList = 0xf20a8a51#32 := by
  intro s h
  refine ⟨_, execTwist_of_legal s, rfl, ?_⟩
  simp only [respond_mt, twist_mt, h, twistArray_toList, seedArray_toList]
  decide +kernel

/-- The sparse array `MT[397] = 1`: the word at distance 397, its copies, and the neighbour's effect at 396. -/
theorem test_twist_sparse : twistArray (writeWord zeroArray 397 1#32) =
    writeWord (writeWord (writeWord (writeWord zeroArray 0 1#32) 227 1#32) 396 0x9908b0df#32) 454 1#32 := by
  apply Vector.toList_inj.mp
  rw [twistArray_toList]
  decide +kernel

/-! ## Output: section 2.5 -/

/-- At 623 the last word of the generation is returned and nothing is twisted yet. -/
theorem test_next_at_623 :
    afterStep { blank 623 with mt := writeWord zeroArray 623 0x12345678#32, cmdPort := [.word 0x02200000#32] } =
      some ([0x00000001#32, 0x2b7e4a2d#32], [], 624) := by decide +kernel

/-- Output 624 of seed 0: the twist falls before the selection. -/
theorem test_next_at_624 : ∀ s, s.mt = twistArray (seedArray 0#32 zeroArray) → s.idx = 624 →
    ∃ t, exec next32 s = .next t ∧ t.idx.val = 1 ∧ t.respPort = s.respPort ++ [0x00000001#32, 0x145b8f3a#32] ∧
      t.mt.toList.take 2 = [0x595ab77a#32, 0xafd521af#32] ∧ t.mt.toList[623]? = some 0xc358470e#32 := by
  intro s h h624
  have hr := readyArray_of_exhausted s (by rw [h624]; rfl)
  have h0 : selectedWord s = 0x595ab77a#32 := by
    rw [selectedWord, hr, h]
    apply readWord_twistArray_eval
    rw [twistArray_toList, seedArray_toList]
    decide +kernel
  refine ⟨_, execNext_of_legal s, ?_, ?_, ?_⟩
  · simp [hr]
  · rw [respond_respPort, h0, words_okWord, advance_respPort]
    congr 1
  · simp only [respond_mt, advance_mt, hr, h, twistArray_toList, seedArray_toList]
    decide +kernel

/-! ## Reconstruction: program P3, its first and last word -/

theorem test_reconstruct_order : ∀ p, p = 0xd091bb5c#32 :: z 622 ++ [0xefa14dff#32] →
    ∃ t, exec (.reconstruct 0#8 p) (blank 3) = .next t ∧ t.idx.val = 624 ∧ t.respPort = [0x00000000#32] ∧
      readWord t.mt 0 = 0x9b0afa27#32 ∧ readWord t.mt 1 = 0#32 ∧ readWord t.mt 623 = 0xd1b102b7#32 := by
  intro p hp
  obtain ⟨o, ho⟩ : ∃ o, observedOperand p = some o := ⟨_, dif_pos (by rw [hp]; simp [length_z])⟩
  have key : ∀ (k : Index) (w : Word), p[k.val]? = some w → readWord o k = w := fun k w h =>
    Option.some.inj ((observedOperand_eq_some p o ho).2 k ▸ h)
  refine ⟨_, execReconstruct_of_operand p o _ ho, rfl, by simp [blank], ?_⟩
  simp only [respond_mt, loadArray_mt, readWord_reconstructArray]
  rw [key 0 0xd091bb5c#32 (by rw [hp]; decide +kernel), key 1 0#32 (by rw [hp]; decide +kernel),
    key 623 0xefa14dff#32 (by rw [hp]; decide +kernel)]
  decide +kernel

/-! ## Witnesses: for each obligation with hypotheses, a concrete state and operands that meet them, at the ends of their
ranges; where a clause needs several, all of them. -/

theorem test_witness_StepExecutesTheNextPacket :
    (Instr.temper 0#8 [5#32]).wellFormed = true ∧
    (presenting [0x04000001#32, 5#32, 0x06000000#32]).cmdPort =
      (encode (.temper 0#8 [5#32])).map .word ++ [.word 0x06000000#32] := by decide

theorem test_witness_DecodeOfEncodeIsTheCommand :
    (Instr.twist 255#8 []).wellFormed = true ∧ (Instr.next 0#8 (z 65535)).wellFormed = true := by
  simp [Instr.wellFormed, Instr.payload, length_z]

theorem test_witness_DecodedCommandIsItsOwnPacket :
    decode [0x04000001#32, 5#32, 6#32] = .command (.temper 0#8 [5#32]) [6#32] := by decide

/-- The ends of both ranges of `OP`, with and without a payload. -/
theorem test_witness_DecodingIsTotalOnWholePackets :
    ([] : List Word).length = headerLen 0x01000000#32 ∧ (z 2).length = headerLen 0x06ff0002#32 ∧
    ([] : List Word).length = headerLen 0x00000000#32 ∧ (z 1).length = headerLen 0x07000001#32 ∧
    ([] : List Word).length = headerLen 0xff000000#32 ∧
    headerOp 0x01000000#32 = 1#8 ∧ headerOp 0x06ff0002#32 = 6#8 ∧ headerOp 0x00000000#32 = 0#8 ∧
    headerOp 0x07000001#32 = 7#8 ∧ headerOp 0xff000000#32 = 255#8 := by decide

theorem test_witness_NoStepWithoutAWholePacket :
    (presenting []).cmdPort = [] ∧ ([] : List Word).length < headerLen 0x04000001#32 ∧
    (presenting [0x04000001#32]).cmdPort = [0x04000001#32].map .word ∧
    ({ blank 0 with cmdPort := [.word 0x04000001#32, .reset] } : State).cmdPort =
      [0x04000001#32].map .word ++ .reset :: [] := by decide

theorem test_witness_EveryWholePacketIsTakenAndAnswered :
    (z 1).length = headerLen 0x07000001#32 ∧
    (presenting [0x07000001#32, 0#32]).cmdPort = (0x07000001#32 :: z 1).map .word ++ [] := by decide

/-- Each clause at the values next to the legal ones; the legal forms too. -/
theorem test_witness_ErrorsFollowTheOrderOfChecks :
    ((headerOp 0x00000000#32).toNat = 0 ∧ 7 ≤ (headerOp 0x07000000#32).toNat ∧
      (presenting [0x07000000#32]).cmdPort = [0x07000000#32].map .word ++ []) ∧
    (presenting [0x01010000#32]).cmdPort = (encode (.seed 1#8 [])).map .word ++ [] ∧
    (presenting (0x01000002#32 :: z 2)).cmdPort = (encode (.seed 0#8 (z 2))).map .word ++ [] ∧
    (presenting (0x01000001#32 :: z 1)).cmdPort = (encode (.seed 0#8 (z 1))).map .word ++ [] ∧
    (presenting (0x02200001#32 :: z 1)).cmdPort = (encode (.next 32#8 (z 1))).map .word ++ [] ∧
    (presenting [0x021f0000#32]).cmdPort = (encode (.next 31#8 [])).map .word ++ [] ∧
    (presenting [0x02200000#32]).cmdPort = (encode (.next 32#8 [])).map .word ++ [] ∧
    (presenting [0x03010000#32]).cmdPort = (encode (.reconstruct 1#8 [])).map .word ++ [] ∧
    (presenting (0x0300026f#32 :: z 623)).cmdPort = (encode (.reconstruct 0#8 (z 623))).map .word ++ [] ∧
    (presenting (0x03000271#32 :: z 625)).cmdPort = (encode (.reconstruct 0#8 (z 625))).map .word ++ [] ∧
    (presenting (0x03000270#32 :: z 624)).cmdPort = (encode (.reconstruct 0#8 (z 624))).map .word ++ [] ∧
    (presenting [0x04000000#32]).cmdPort = (encode (.temper 0#8 [])).map .word ++ [] ∧
    (presenting (0x04000001#32 :: z 1)).cmdPort = (encode (.temper 0#8 (z 1))).map .word ++ [] ∧
    (presenting (0x05000002#32 :: z 2)).cmdPort = (encode (.untemper 0#8 (z 2))).map .word ++ [] ∧
    (presenting (0x05000001#32 :: z 1)).cmdPort = (encode (.untemper 0#8 (z 1))).map .word ++ [] ∧
    (presenting [0x06ff0000#32]).cmdPort = (encode (.twist 255#8 [])).map .word ++ [] ∧
    (presenting [0x06000000#32]).cmdPort = (encode (.twist 0#8 [])).map .word ++ [] := by decide +kernel

theorem test_witness_IllegalCommandsChangeNothing :
    (Instr.next 32#8 []).legal = true ∧ (Instr.next 33#8 []).legal = false := by decide

theorem test_witness_ErrorLeavesNoTraceForTheNextCommand : (Instr.twist 1#8 []).legal = false := by decide

/-- Blocks in the same state with different histories. -/
theorem test_witness_BehaviourDependsOnTheBlockAlone :
    SameBlock (blank 5) { blank 5 with cmdPort := [.reset], respPort := [0#32] } := ⟨rfl, rfl⟩

/-- A command that changes the array, and one (at cursor 623) that does not. -/
theorem test_witness_OnlyFourCommandsChangeTheArray :
    (∃ t, exec (.seed 0#8 [1#32]) (blank 0) = .next t ∧ t.mt ≠ (blank 0).mt) ∧
    (∃ t, exec next32 (blank 623) = .next t ∧ t.mt = (blank 623).mt) := by
  refine ⟨⟨_, execSeed_of_operand [1#32] 1#32 _ rfl, ?_⟩, ⟨_, execNext_of_legal _, ?_⟩⟩
  · intro h
    have := congrArg (fun m => readWord m 0) h
    simp only [respond_mt, loadArray_mt, readWord_seedArray] at this
    revert this
    decide +kernel
  · rw [respond_mt, advance_mt, readyArray_of_lt _ (by decide)]

/-- The cursor at 0, 623 and 624. -/
theorem test_witness_CursorWritesAreTheListedOnes :
    (∃ t, exec next32 (blank 0) = .next t ∧ t.idx.val = 1) ∧
    (∃ t, exec next32 (blank 623) = .next t ∧ t.idx.val = 624) ∧
    (∃ t, exec next32 (blank 624) = .next t ∧ t.idx.val = 1) ∧
    (∃ t, exec (.next 31#8 []) (blank 624) = .next t ∧ t.idx.val = 624) :=
  ⟨⟨_, rfl, rfl⟩, ⟨_, rfl, rfl⟩, ⟨_, rfl, rfl⟩, ⟨_, rfl, rfl⟩⟩

theorem test_witness_StepKeepsTheResponseStreamWhole :
    ResponseStream [0x00000001#32, 7#32] ∧
    ∃ t, step { presenting [0x06000000#32] with respPort := [0x00000001#32, 7#32] } = .next t :=
  ⟨⟨[.okWord 7#32], by simp⟩, ⟨_, rfl⟩⟩

theorem test_witness_ResponseStreamReadsOneWay :
    [Response.ok, .okWord 0#32].flatMap Response.words = [Response.ok, .okWord 0#32].flatMap Response.words := rfl

/-- A bit of each branch of each step, at its ends. -/
theorem test_witness_EachTemperStepChangesOnlyItsBits :
    (0 < 32 ∧ 7 < 32 ∧ 13 < 32 ∧ 14 < 32 ∧ 17 < 32 ∧ 20 < 32 ∧ 21 < 32 ∧ 31 < 32) ∧
    (temperStep1 0x80000000#32).getLsbD 20 = true ∧ (temperStep2 1#32).getLsbD 7 = true ∧
    (temperStep3 4#32).getLsbD 17 = true ∧ (temperStep4 0x80000000#32).getLsbD 13 = true := by decide

theorem test_witness_TemperIsTheXorNetwork :
    temperInputs[0]? = some [0, 3, 14, 18, 22, 29] ∧ temperInputs[31]? = some [16, 24, 27, 31] ∧
    temperInputs[32]? = none ∧ temperColumns[0]? = some 0x00400091#32 ∧ temperColumns[31]? = some 0x88102204#32 ∧
    temperColumns[32]? = none := by decide

theorem test_witness_UntemperIsTheXorNetwork :
    untemperInputs[0]? = some [0, 7, 11, 18, 22, 25, 29] ∧
    untemperInputs[31]? = some [2, 9, 16, 17, 20, 24, 27, 31] ∧ untemperInputs[32]? = none ∧
    untemperColumns[0]? = some 0x102244c9#32 ∧ untemperColumns[31]? = some 0x80102204#32 ∧
    untemperColumns[32]? = none := by decide

/-- Both ends of the range of shifts. -/
theorem test_witness_InvRightSolvesTheRightShiftEquation :
    (0xffffffff#32 ^^^ (0xffffffff#32 >>> 1) = 0x80000000#32 ∧ invRight 0x80000000#32 1 = 0xffffffff#32) ∧
    (0xffffffff#32 ^^^ (0xffffffff#32 >>> 31) = 0xfffffffe#32 ∧ invRight 0xfffffffe#32 31 = 0xffffffff#32) := by
  decide +kernel

theorem test_witness_InvLeftSolvesTheMaskedLeftShiftEquation :
    (1#32 ^^^ ((1#32 <<< 1) &&& 0xffffffff#32) = 3#32 ∧ invLeft 3#32 1 0xffffffff#32 = 1#32) ∧
    (1#32 ^^^ ((1#32 <<< 31) &&& 0xffffffff#32) = 0x80000001#32 ∧
      invLeft 0x80000001#32 31 0xffffffff#32 = 1#32) := by decide +kernel

/-- The fewest passes each clause allows. -/
theorem test_witness_UntemperStepsInIteratedForm :
    iterRight 0xdeadbeef#32 18 1 = 0xdead8944#32 ∧ iterLeft 0xdead8944#32 15 0xefc60000#32 1 = 0x1a2f8944#32 ∧
    iterLeft 0x1a2f8944#32 7 0x9d2c5680#32 4 = 0x8f2b8b44#32 ∧ iterRight 0x8f2b8b44#32 11 2 = 0x8f3a6c09#32 := by
  decide +kernel

/-- A wrong `ARG`, and the payload lengths on both sides of 1 (TEMPER and UNTEMPER) and of 0 (TWIST). -/
theorem test_witness_TemperUntemperTwist_refused :
    (1#8 ≠ 0#8 ∧ 255#8 ≠ 0#8) ∧ (z 0).length ≠ 1 ∧ (z 2).length ≠ 1 ∧ (z 1).length ≠ 0 := by decide

/-- No payload with seed 0, one word at the greatest seed, two words; the ends of the index range. -/
theorem test_witness_SeedExpandsTheSeedIntoTheWholeArray :
    (([] : List Word) = [] ∧ (0 : Word) = 0) ∧ [0xffffffff#32] = [0xffffffff#32] ∧ 2 ≤ (z 2).length ∧ (1 : Octet) ≠ 0#8 ∧
    (1 ≤ 1 ∧ 1 ≤ 623) ∧ (1 ≤ 623 ∧ 623 ≤ 623) := by decide

theorem test_witness_SeedAndReconstructDiscardTheOldState : (z 624).length = 624 := length_z 624

theorem test_witness_SeedingNeverGivesTheZeroArray : (z 0).length ≤ 1 ∧ (z 1).length ≤ 1 := by decide

theorem test_witness_ResetEventRestoresTheResetState :
    ({ blank 9 with cmdPort := [.reset, .word 0x02200000#32] } : State).cmdPort =
      .reset :: .word 0x02200000#32 :: [] := rfl

/-- Operands that differ in every bit `mix` does not use. -/
theorem test_witness_MixUsesTopBitAndLowBits :
    (0x80000000#32).getLsbD 31 = (0xffffffff#32).getLsbD 31 ∧
    (∀ i, i < 31 → (0x80000001#32).getLsbD i = (0x00000001#32).getLsbD i) ∧
    mix 0x80000000#32 0x80000001#32 = 0xd908b0df#32 ∧ mix 0xffffffff#32 0x00000001#32 = 0xd908b0df#32 := by decide

/-- The ends of the three ranges of indices meet at 226/227 and 622/623. -/
theorem test_witness_TwistIsTheFunctionalForm :
    (0 ≤ 226 ∧ 226 ≤ 226 ∧ ¬ 227 ≤ 226) ∧ (227 ≤ 227 ∧ 227 ≤ 622) ∧ (227 ≤ 622 ∧ 622 ≤ 622) ∧ ¬ 623 ≤ 622 := by decide

theorem test_witness_TwistCommandAndItsCornerCases : (blank 624).idx.val = 624 ∧ (blank 623).idx.val ≠ 624 := by decide

theorem test_witness_TwistWorkedExample :
    ({ blank 624 with mt := writeWord zeroArray 1 1#32 } : State).mt = writeWord zeroArray 1 1#32 := rfl

/-- Two different arrays that differ in bits 30..0 of word 0 alone. -/
theorem test_witness_TwistIsLinearAndIgnoresLowBitsOfWordZero :
    (readWord zeroArray 0).getLsbD 31 = (readWord (writeWord zeroArray 0 0x7fffffff#32) 0).getLsbD 31 ∧
    (∀ k : Index, k ≠ 0 → readWord zeroArray k = readWord (writeWord zeroArray 0 0x7fffffff#32) k) ∧
    readWord zeroArray 0 ≠ readWord (writeWord zeroArray 0 0x7fffffff#32) 0 := by
  refine ⟨by decide +kernel, fun k hk => ?_, by decide +kernel⟩
  rw [readWord_writeWord_ne _ _ _ _ (Ne.symm hk)]

theorem test_witness_TwistOfAnyWindowIsTheNextWindow : TwistSequence (fun _ => 0#32) := by
  intro n
  show 0#32 = 0#32 ^^^ mix 0#32 0#32
  decide

/-- The cursor at both ends of each clause; the widths next to 32. -/
theorem test_witness_NextAnswersTheTemperedWordAndAdvances :
    (blank 0).idx.val < 624 ∧ (blank 623).idx.val < 624 ∧ (blank 624).idx.val = 624 ∧ (z 1).length ≠ 0 ∧
    (z 0).length = 0 ∧ 31#8 ≠ 32#8 ∧ 33#8 ≠ 32#8 := by decide

theorem test_witness_RefusedWidthConsumesNoOutput : 31#8 ≠ 32#8 ∧ 33#8 ≠ 32#8 ∧ 0#8 ≠ 32#8 ∧ 255#8 ≠ 32#8 := by decide

theorem test_witness_OutputsAreTheTemperedGenerationsInOrder : State.reset.idx.val = 624 ∧ 1 ≤ 1 := ⟨rfl, Nat.le_refl 1⟩

theorem test_witness_ReconstructLoadsTheUntemperedOutputs :
    (z 624).length = 624 ∧ (z 623).length ≠ 624 ∧ (z 625).length ≠ 624 ∧ (z 0).length ≠ 624 ∧ 1#8 ≠ 0#8 := by
  simp [length_z]

/-- Both aligned sources: just twisted, and fresh from reset. -/
theorem test_witness_AlignedCaptureClonesTheState :
    ((blank 0).idx.val = 0 ∨ (blank 0).idx.val = 624) ∧ (State.reset.idx.val = 0 ∨ State.reset.idx.val = 624) :=
  ⟨.inl rfl, .inr rfl⟩

/-- Each line spells its command; `.packet` and `RECONSTRUCT` with as many words as their side condition asks. -/
theorem test_witness_AssemblerLinesAreTheirPackets :
    Asm.seedDefault.command = some (.seed 0#8 []) ∧ (Asm.seed 7#32).command = some (.seed 0#8 [7#32]) ∧
    Asm.next.command = some (.next 32#8 []) ∧ (Asm.nextWidth 255#8).command = some (.next 255#8 []) ∧
    (Asm.reconstruct [1#32]).command = some (.reconstruct 0#8 [1#32]) ∧ [1#32].length < 65536 ∧
    (Asm.temper 7#32).command = some (.temper 0#8 [7#32]) ∧
    (Asm.untemper 7#32).command = some (.untemper 0#8 [7#32]) ∧ Asm.twist.command = some (.twist 0#8 []) ∧
    (Asm.packet 0x01010002#32 [1#32, 2#32]).command = some (.seed 1#8 [1#32, 2#32]) ∧
    [1#32, 2#32].length = headerLen 0x01010002#32 ∧ (Asm.packet 0x07000000#32 []).command = none := by decide

end Sys2Proof.Tests
end

section
/-! PROOFS. SEED (spec/40_seed.md R90, R91): the recurrence in exact integer arithmetic, every word of the seeded array,
and the obligation about the whole new state. -/

namespace Sys2Proof.Machine

theorem exec_seed (arg : Octet) (p : List Word) (s : State) : exec (.seed arg p) s = execSeed arg p s := rfl

/-- R91: the wrapping multiply and add keep the low 32 bits of the exact product and sum. -/
theorem toNat_seedWord (prev : Word) (i : Nat) :
    (seedWord prev i).toNat = (0x6c078965 * (prev ^^^ (prev >>> 30)).toNat + i) % 2 ^ 32 := by
  rw [seedWord, BitVec.toNat_add, BitVec.toNat_mul, BitVec.toNat_ofNat, ← Nat.add_mod]
  rfl

theorem readWord_seedArray_zero (v : Word) (mt : MT) : readWord (seedArray v mt) 0 = v :=
  readWord_seedArray v mt 0

/-- R90: each word after word 0 comes from the seeded word before it. -/
theorem readWord_seedArray_succ (v : Word) (mt : MT) (j : Nat) (h : j + 1 < 624) :
    readWord (seedArray v mt) ⟨j + 1, h⟩ = seedWord (readWord (seedArray v mt) ⟨j, by omega⟩) (j + 1) := by
  rw [readWord_seedArray, readWord_seedArray]
  rfl

theorem toNat_readWord_seedArray (v : Word) (mt : MT) (i : Nat) (h1 : 1 ≤ i) (h2 : i ≤ 623) :
    (readWord (seedArray v mt) ⟨i, by omega⟩).toNat =
      (0x6c078965 * (readWord (seedArray v mt) ⟨i - 1, by omega⟩ ^^^
        (readWord (seedArray v mt) ⟨i - 1, by omega⟩ >>> 30)).toNat + i) % 2 ^ 32 := by
  obtain ⟨j, rfl⟩ := Nat.exists_eq_add_of_le' h1
  rw [readWord_seedArray_succ, toNat_seedWord]
  rfl

theorem encode_seed_nil : encode (.seed 0#8 []) = [0x01000000#32] := by decide

theorem encode_seed_singleton (v : Word) : encode (.seed 0#8 [v]) = [0x01000001#32, v] := by
  have header : makeHeader 0x01#8 0#8 1 = 0x01000001#32 := by decide
  exact congrArg (· :: [v]) header

/-- Settles O30: the legal forms by the words of the seeded array, the errors by the order of the checks. -/
theorem seedExpandsTheSeedIntoTheWholeArray : Obligations.SeedExpandsTheSeedIntoTheWholeArray := by
  unfold Obligations.SeedExpandsTheSeedIntoTheWholeArray
  refine ⟨fun s payload v legal => ?_, fun s arg p => ⟨fun wrongArg => ?_, fun ⟨zeroArg, wide⟩ => ?_⟩,
    encode_seed_nil, encode_seed_singleton⟩
  · have operand : seedOperand payload = some v :=
      (seedOperand_eq_some payload v).mpr (legal.imp_left fun ⟨noPayload, zero⟩ => ⟨noPayload, zero.symm⟩)
    exact ⟨respond .ok (loadArray (seedArray v s.mt) s), execSeed_of_operand payload v s operand,
      readWord_seedArray_zero v s.mt, toNat_readWord_seedArray v s.mt, rfl, rfl, by simp⟩
  · rw [exec_seed, execSeed_of_arg arg p s wrongArg, respond, words_illegalCommand]
  · rw [exec_seed, zeroArg, execSeed_of_wide p s wide, respond, words_invalidSeed]

end Sys2Proof.Machine
end

section
/-! PROOFS. TWIST and the NEXT after it (spec/41_twist.md R104): a legal TWIST and a legal NEXT as whole next states, and
what NEXT selects its output from when a TWIST comes first. -/

namespace Sys2Proof.Machine

theorem exec_twist (arg : Octet) (p : List Word) (s : State) : exec (.twist arg p) s = execTwist arg p s := rfl

/-- The state a legal TWIST leaves. -/
theorem exec_twist_legal (s : State) : exec (.twist 0#8 []) s = .next (respond .ok (twist s)) :=
  execTwist_of_legal s

/-- The state a legal NEXT leaves. -/
theorem exec_next32 (s : State) :
    exec next32 s = .next (respond (.okWord (temper (selectedWord s))) (advance s)) :=
  execNext_of_legal s

theorem encode_twist_nil : encode (.twist 0#8 []) = [0x06000000#32] := by decide

/-- R104: after a TWIST the next output is word 0 of the new generation, whatever the cursor was before it. -/
theorem readyArray_twisted (s : State) : readyArray (respond .ok (twist s)) = (twistArray s.mt, 0) :=
  readyArray_of_lt _ (Nat.zero_lt_succ 623)

theorem selectedWord_twisted (s : State) :
    selectedWord (respond .ok (twist s)) = readWord (twistArray s.mt) 0 := by
  rw [selectedWord, readyArray_twisted]

/-- The array and index NEXT selects from fix both the block it leaves and its answer. -/
theorem sameBlock_advance_of_readyArray_eq (s t : State) (h : readyArray s = readyArray t) :
    SameBlock (advance s) (advance t) := by
  simp [SameBlock, h]

theorem selectedWord_eq_of_readyArray_eq (s t : State) (h : readyArray s = readyArray t) :
    selectedWord s = selectedWord t := by
  rw [selectedWord, selectedWord, h]

/-- Settles O37: the forms of TWIST one by one; at cursor 624 the NEXT after a TWIST and NEXT alone select from the same
array and index. -/
theorem twistCommandAndItsCornerCases : Obligations.TwistCommandAndItsCornerCases := by
  unfold Obligations.TwistCommandAndItsCornerCases
  refine ⟨fun s arg p illegal => ?_, encode_twist_nil, fun s => ?_, fun s exhausted => ?_, fun s => ?_⟩
  · rw [exec_twist, execTwist_of_illegal arg p s illegal, respond, words_illegalCommand]
  · refine ⟨_, _, exec_twist_legal s, rfl, rfl, rfl, by simp, exec_next32 _, ?_, ?_, ?_⟩
    · simp [readyArray_twisted]
    · simp [readyArray_twisted]
    · simp [selectedWord_twisted]
  · have ready : readyArray (respond .ok (twist s)) = readyArray s := by
      rw [readyArray_twisted, readyArray_of_exhausted s exhausted]
    refine ⟨_, _, _, (Response.okWord (temper (selectedWord s))).words, exec_twist_legal s, exec_next32 _,
      exec_next32 s, sameBlock_advance_of_readyArray_eq _ _ ready, ?_, rfl⟩
    rw [respond_respPort, advance_respPort, selectedWord_eq_of_readyArray_eq _ _ ready]
  · exact ⟨_, _, exec_twist_legal s, exec_twist_legal _, rfl, rfl⟩

end Sys2Proof.Machine
end

section
/-! PROOFS. Tempering and its inverse (spec/42_temper.md R112, spec/43_untemper.md R122, R123): each bit loop of
untempering gives back the word its step was applied to. A word has only finitely many values, so a step with an inverse
on the one side is a bijection and the inverse is two-sided. -/

namespace Sys2Proof.Machine

/-! ## Bits -/

theorem readBit_of_ge (x : Word) (i : Nat) (h : 32 ≤ i) : readBit x i = false := BitVec.getLsbD_of_ge x i h

theorem readBit_xor_ushiftRight (x : Word) (s i : Nat) :
    readBit (x ^^^ (x >>> s)) i = (readBit x i ^^ readBit x (i + s)) := by
  simp [readBit, Nat.add_comm s i]

theorem readBit_xor_shiftLeft_and (x m : Word) (s i : Nat) (h : i < 32) :
    readBit (x ^^^ ((x <<< s) &&& m)) i =
      (readBit x i ^^ (decide (s ≤ i) && readBit x (i - s) && readBit m i)) := by
  simp only [readBit, BitVec.getLsbD_xor, BitVec.getLsbD_and, BitVec.getLsbD_shiftLeft, h, decide_true, Bool.true_and,
    ← decide_not, Nat.not_lt]

/-! ## The two loops undo their shifts -/

/-- The bits from `n` up of `a` are those of `x`: what the downward loop has recovered when passes `n-1 .. 0` remain. -/
def AgreeFrom (n : Nat) (a x : Word) : Prop := ∀ j, n ≤ j → readBit a j = readBit x j

/-- The bits below `n` of `a` are those of `x`: what the upward loop has recovered after `n` passes. -/
def AgreeBelow (n : Nat) (a x : Word) : Prop := ∀ j, j < n → readBit a j = readBit x j

/-- R122: a pass of `inv_right` recovers one more bit, since the bit it reads lies above the one it writes. -/
theorem invRightBit_recovers (x a : Word) (s n : Nat) (hs : 0 < s) (hn : n < 32) (h : AgreeFrom (n + 1) a x) :
    AgreeFrom n (invRightBit (x ^^^ (x >>> s)) s ⟨n, hn⟩ a) x := by
  intro j hj
  rw [invRightBit, readBit_writeBit _ _ _ _ hn]
  by_cases written : n = j
  · subst written
    rw [if_pos rfl, readBit_xor_ushiftRight, h (n + s) (by omega)]
    by_cases inside : n + s ≤ 31
    · simp [inside]
    · simp [inside, readBit_of_ge x (n + s) (by omega)]
  · rw [if_neg written, h j (by omega)]

/-- R123: a pass of `inv_left` recovers one more bit, since the bit it reads lies below the one it writes. -/
theorem invLeftBit_recovers (x a m : Word) (s n : Nat) (hs : 0 < s) (hn : n < 32) (h : AgreeBelow n a x) :
    AgreeBelow (n + 1) (invLeftBit (x ^^^ ((x <<< s) &&& m)) s m ⟨n, hn⟩ a) x := by
  intro j hj
  rw [invLeftBit, readBit_writeBit _ _ _ _ hn]
  by_cases written : n = j
  · subst written
    rw [if_pos rfl, readBit_xor_shiftLeft_and x m s n hn]
    by_cases inside : s ≤ n
    · simp [inside, h (n - s) (by omega)]
    · simp [inside]
  · rw [if_neg written, h j (by omega)]

/-- R122: `inv_right` gives back the word that was shifted. -/
theorem invRight_xor_ushiftRight (x : Word) (s : Nat) (hs : 0 < s) : invRight (x ^^^ (x >>> s)) s = x := by
  have start : AgreeFrom 32 0#32 x := fun j hj => by rw [readBit_of_ge _ j hj, readBit_of_ge x j hj]
  have recovered : AgreeFrom 0 (invRight (x ^^^ (x >>> s)) s) x :=
    forDown_induct _ (fun n a => AgreeFrom n a x) (fun n hn a => invRightBit_recovers x a s n hs hn) 32 (Nat.le_refl 32)
      0#32 start
  exact BitVec.eq_of_getLsbD_eq fun i _ => recovered i (Nat.zero_le i)

/-- R123: `inv_left` gives back the word that was shifted and masked. -/
theorem invLeft_xor_shiftLeft_and (x m : Word) (s : Nat) (hs : 0 < s) :
    invLeft (x ^^^ ((x <<< s) &&& m)) s m = x := by
  have start : AgreeBelow 0 0#32 x := fun j hj => absurd hj (Nat.not_lt_zero j)
  have recovered : AgreeBelow 32 (invLeft (x ^^^ ((x <<< s) &&& m)) s m) x :=
    forUp_induct _ (fun n a => AgreeBelow n a x) 0#32 start (fun n hn a => invLeftBit_recovers x a m s n hs hn) 32
      (Nat.le_refl 32)
  exact BitVec.eq_of_getLsbD_eq recovered

/-! ## The steps of tempering and their inverses -/

theorem invRight_temperStep1 (x : Word) : invRight (temperStep1 x) temperU = x :=
  invRight_xor_ushiftRight x temperU (by decide)

theorem invLeft_temperStep2 (x : Word) : invLeft (temperStep2 x) temperS temperB = x :=
  invLeft_xor_shiftLeft_and x temperB temperS (by decide)

theorem invLeft_temperStep3 (x : Word) : invLeft (temperStep3 x) temperT temperC = x :=
  invLeft_xor_shiftLeft_and x temperC temperT (by decide)

theorem invRight_temperStep4 (x : Word) : invRight (temperStep4 x) temperL = x :=
  invRight_xor_ushiftRight x temperL (by decide)

/-- R112: `untemper` undoes the four steps in reverse order. -/
@[simp] theorem untemper_temper (x : Word) : untemper (temper x) = x := by
  rw [untemper, temper, invRight_temperStep4, invLeft_temperStep3, invLeft_temperStep2, invRight_temperStep1]

/-- Words are finite, so a function of them that can be undone is a bijection. -/
theorem bijective_of_undo (f g : Word → Word) (undo : ∀ x, g (f x) = x) : Function.Bijective f :=
  Finite.injective_iff_bijective.mp (Function.LeftInverse.injective undo)

theorem temper_bijective : Function.Bijective temper := bijective_of_undo temper untemper untemper_temper

@[simp] theorem temper_untemper (y : Word) : temper (untemper y) = y :=
  Function.LeftInverse.rightInverse_of_surjective untemper_temper temper_bijective.surjective y

/-- Settles O19: `untemper` undoes `temper` step by step, and a function of words that can be undone is a bijection. -/
theorem temperIsABijectionInvertedByUntemper : Obligations.TemperIsABijectionInvertedByUntemper := by
  unfold Obligations.TemperIsABijectionInvertedByUntemper
  exact ⟨untemper_temper, temper_untemper, temper_bijective.existsUnique,
    bijective_of_undo _ (invRight · temperU) invRight_temperStep1,
    bijective_of_undo _ (invLeft · temperS temperB) invLeft_temperStep2,
    bijective_of_undo _ (invLeft · temperT temperC) invLeft_temperStep3,
    bijective_of_undo _ (invRight · temperL) invRight_temperStep4⟩

end Sys2Proof.Machine
end

section
/-! PROOFS. The TEMPER command (spec/42_temper.md R110): its answer, its refusals, its packet and its corner cases. -/

namespace Sys2Proof.Machine

theorem exec_temper (arg : Octet) (p : List Word) (s : State) : exec (.temper arg p) s = execTemper arg p s := rfl

theorem encode_temper_singleton (x : Word) : encode (.temper 0#8 [x]) = [0x04000001#32, x] := by
  have header : makeHeader 0x04#8 0#8 1 = 0x04000001#32 := by decide
  exact congrArg (· :: [x]) header

/-- R110: the tempered values of the extreme words. -/
theorem temper_cornerCases :
    temper 0 = 0 ∧ temper 0xffffffff#32 = 0x6fe01bf8#32 ∧ temper 0x80000000#32 = 0x88102204#32 ∧
    temper 1#32 = 0x00400091#32 := by decide

/-- Settles O27: the legal form and the refused forms of TEMPER, each as a whole next state. -/
theorem temperAnswersTheTemperedWord : Obligations.TemperAnswersTheTemperedWord := by
  unfold Obligations.TemperAnswersTheTemperedWord
  refine ⟨fun s x => ?_, fun s arg p illegal => ?_, encode_temper_singleton, temper_cornerCases⟩
  · rw [exec_temper, execTemper_of_legal, respond, words_okWord]
  · rw [exec_temper, execTemper_of_illegal arg p s illegal, respond, words_illegalCommand]

end Sys2Proof.Machine
end

section
/-! PROOFS. The two inverse shift equations (spec/43_untemper.md R122, R123): the bit loop undoes the shift step of every
word, so the step takes at most one word to `y`; and words are finite, so it takes the loop's answer to `y`. -/

namespace Sys2Proof.Machine

/-- Words are finite, so what undoes a function of them is also undone by it. -/
theorem apply_undo (f g : Word → Word) (undo : ∀ x, g (f x) = x) (y : Word) : f (g y) = y :=
  Function.LeftInverse.rightInverse_of_surjective undo (bijective_of_undo f g undo).surjective y

/-- R122: the answer of `inv_right` satisfies its equation. -/
theorem xor_ushiftRight_invRight (y : Word) (s : Nat) (hs : 0 < s) : invRight y s ^^^ (invRight y s >>> s) = y :=
  apply_undo (fun x => x ^^^ (x >>> s)) (invRight · s) (fun x => invRight_xor_ushiftRight x s hs) y

/-- R123: the answer of `inv_left` satisfies its equation, whatever the mask. -/
theorem xor_shiftLeft_and_invLeft (y m : Word) (s : Nat) (hs : 0 < s) :
    invLeft y s m ^^^ ((invLeft y s m <<< s) &&& m) = y :=
  apply_undo (fun x => x ^^^ ((x <<< s) &&& m)) (invLeft · s m) (fun x => invLeft_xor_shiftLeft_and x m s hs) y

/-- Settles O23: a solution `x` is `inv_right` of its own shifted word, and `inv_right` inverts on both sides. -/
theorem invRightSolvesTheRightShiftEquation : Obligations.InvRightSolvesTheRightShiftEquation := by
  unfold Obligations.InvRightSolvesTheRightShiftEquation
  intro s hs _ x y
  refine ⟨xor_ushiftRight_invRight y s hs, fun solves => ?_⟩
  rw [← solves, invRight_xor_ushiftRight x s hs]

/-- Settles O24: a solution `x` is `inv_left` of its own shifted and masked word, and `inv_left` inverts on both sides. -/
theorem invLeftSolvesTheMaskedLeftShiftEquation : Obligations.InvLeftSolvesTheMaskedLeftShiftEquation := by
  unfold Obligations.InvLeftSolvesTheMaskedLeftShiftEquation
  intro s hs _ x y m
  refine ⟨xor_shiftLeft_and_invLeft y m s hs, fun solves => ?_⟩
  rw [← solves, invLeft_xor_shiftLeft_and x m s hs]

end Sys2Proof.Machine
end

section
/-! PROOFS. The UNTEMPER command (spec/43_untemper.md R120): its answer, its refusals, its packet and its corner cases. -/

namespace Sys2Proof.Machine

theorem exec_untemper (arg : Octet) (p : List Word) (s : State) :
    exec (.untemper arg p) s = execUntemper arg p s := rfl

theorem encode_untemper_singleton (y : Word) : encode (.untemper 0#8 [y]) = [0x05000001#32, y] := by
  have header : makeHeader 0x05#8 0#8 1 = 0x05000001#32 := by decide
  exact congrArg (· :: [y]) header

/-- R126: a word that tempers to `y` is the untempered `y`. -/
theorem untemper_eq_of_temper_eq (x y : Word) (h : temper x = y) : untemper y = x := by
  rw [← h, untemper_temper]

/-- R120: the untempered values of the extreme words, each the word whose tempered value is the extreme word. -/
theorem untemper_cornerCases :
    untemper 0 = 0 ∧ untemper 0xffffffff#32 = 0x12dd9bb3#32 ∧ untemper 0x80000000#32 = 0x80102204#32 ∧
    untemper 1#32 = 0x102244c9#32 :=
  ⟨untemper_eq_of_temper_eq _ _ (by decide), untemper_eq_of_temper_eq _ _ (by decide),
    untemper_eq_of_temper_eq _ _ (by decide), untemper_eq_of_temper_eq _ _ (by decide)⟩

/-- Settles O28: the legal form and the refused forms of UNTEMPER, each as a whole next state. -/
theorem untemperAnswersTheUntemperedWord : Obligations.UntemperAnswersTheUntemperedWord := by
  unfold Obligations.UntemperAnswersTheUntemperedWord
  refine ⟨fun s y => ⟨temper_untemper y, ?_⟩, fun s arg p illegal => ?_, encode_untemper_singleton,
    untemper_cornerCases⟩
  · rw [exec_untemper, execUntemper_of_legal, respond, words_okWord]
  · rw [exec_untemper, execUntemper_of_illegal arg p s illegal, respond, words_illegalCommand]

end Sys2Proof.Machine
end

section
/-! PROOFS. The NEXT command (spec/45_output.md R140, R141): a legal NEXT as a whole next state, from the array and index it
selects from; its refusals and its packet. -/

namespace Sys2Proof.Machine

theorem exec_next (arg : Octet) (p : List Word) (s : State) : exec (.next arg p) s = execNext arg p s := rfl

theorem encode_next_32 : encode (.next 32#8 []) = [0x02200000#32] := by decide

theorem advance_of_readyArray_eq (s : State) (mt : MT) (k : Index) (h : readyArray s = (mt, k)) :
    advance s = { s with mt := mt, idx := k.succ } := by
  rw [advance, h]

theorem selectedWord_of_readyArray_eq (s : State) (mt : MT) (k : Index) (h : readyArray s = (mt, k)) :
    selectedWord s = readWord mt k := by
  rw [selectedWord, h]

/-- A legal NEXT as a whole next state, from the array and index it selects from. -/
theorem execNext_of_readyArray_eq (s : State) (mt : MT) (k : Index) (h : readyArray s = (mt, k)) :
    execNext 32#8 [] s = .next { s with
      mt := mt
      idx := k.succ
      respPort := s.respPort ++ [0x00000001#32, temper (readWord mt k)] } := by
  rw [execNext_of_legal, selectedWord_of_readyArray_eq s mt k h, advance_of_readyArray_eq s mt k h, respond,
    words_okWord]

/-- A response leaves what the next output is selected from. -/
theorem readyArray_respond (r : Response) (s : State) : readyArray (respond r s) = readyArray s := rfl

/-- The response port is no part of the block. -/
theorem sameBlock_respond (q r : Response) (s t : State) : SameBlock (respond q s) (respond r t) ↔ SameBlock s t := by
  simp [SameBlock]

/-- Settles O41: a legal NEXT on the two sides of the twist, then the refusals in the order of the checks. -/
theorem nextAnswersTheTemperedWordAndAdvances : Obligations.NextAnswersTheTemperedWordAndAdvances := by
  unfold Obligations.NextAnswersTheTemperedWordAndAdvances
  refine ⟨fun s below => ?_, fun s exhausted => ?_,
    fun s arg p => ⟨fun hasPayload => ?_, fun ⟨noPayload, wrongWidth⟩ => ?_⟩, encode_next_32⟩
  · exact execNext_of_readyArray_eq s _ _ (readyArray_of_lt s below)
  · exact execNext_of_readyArray_eq s _ _ (readyArray_of_exhausted s exhausted)
  · rw [exec_next, execNext_of_payload arg p s hasPayload, respond, words_illegalCommand]
  · rw [exec_next, List.eq_nil_of_length_eq_zero noPayload, execNext_of_width arg s wrongWidth, respond,
      words_unsupportedBitWidth]

/-- Settles O43: the refusal is only a response, so the NEXT after it selects from the same array and index as the NEXT
in its place. -/
theorem refusedWidthConsumesNoOutput : Obligations.RefusedWidthConsumesNoOutput := by
  unfold Obligations.RefusedWidthConsumesNoOutput
  intro s k wrongWidth
  have ready : readyArray s = readyArray (respond (.error .unsupportedBitWidth) s) := (readyArray_respond _ s).symm
  have sameBlock := sameBlock_advance_of_readyArray_eq _ _ ready
  have sameWord := selectedWord_eq_of_readyArray_eq _ _ ready
  refine ⟨respond (.error .unsupportedBitWidth) s, _, _, temper (selectedWord s), execNext_of_width k s wrongWidth,
    respond_mt _ s, respond_idx _ s, by simp, exec_next32 s, exec_next32 _, (sameBlock_respond _ _ _ _).mpr sameBlock,
    by simp, ?_⟩
  rw [respond_respPort, advance_respPort, words_okWord, sameWord]

end Sys2Proof.Machine
end

section
/-! PROOFS. A whole packet on the command port (spec/30_encoding.md R65): the packet of a command decodes to that
command; one step executes it, or answers a packet with an unknown `OP`, on the state whose packet has been taken. -/

namespace Sys2Proof.Machine

/-- R60: the payload that follows a header is the `LEN` words it announces. -/
theorem takeWords_headerLen (h : Word) (payload rest : List Word) (len : payload.length = headerLen h) :
    takeWords (headerLen h) (payload ++ rest) = some (payload, rest) := by
  rw [← len, takeWords_append]

theorem decode_encode_append (i : Instr) (rest : List Word) (wf : i.wellFormed = true) :
    decode (encode i ++ rest) = .command i rest := by
  have short : i.payload.length < 65536 := of_decide_eq_true wf
  have len : i.payload.length = headerLen (makeHeader i.op i.arg i.payload.length) := by
    rw [headerLen_makeHeader, Nat.mod_eq_of_lt short]
  simp [encode, decode, takeWords_headerLen _ _ rest len]

theorem decode_of_unknownOp (h : Word) (payload rest : List Word) (len : payload.length = headerLen h)
    (unknown : (headerOp h).toNat = 0 ∨ 7 ≤ (headerOp h).toNat) :
    decode (h :: payload ++ rest) = .unknownOp (headerOp h) rest := by
  have noCommand := (selectCommand_eq_none (headerOp h) (headerArg h) payload).mpr unknown
  simp [decode, takeWords_headerLen h payload rest len, noCommand]

/-- Taking a packet leaves on the port exactly what was presented after it. -/
theorem takePacket_presentedWords (after : List PortItem) (s : State) :
    takePacket (presentedWords after).1 (presentedWords after).2 s = { s with cmdPort := after } := by
  rw [takePacket, presentedWords_join]

theorem step_of_command (s : State) (i : Instr) (after : List PortItem) (wf : i.wellFormed = true)
    (port : s.cmdPort = (encode i).map .word ++ after) : step s = exec i { s with cmdPort := after } := by
  rw [step_of_words s _ _ port, stepPacket, port, presentedWords_append, decode_encode_append i _ wf]
  exact congrArg (exec i) (takePacket_presentedWords after s)

/-- R156, check 1: an unknown `OP` is answered IllegalCommand. -/
theorem step_of_unknownOp (s : State) (h : Word) (payload : List Word) (after : List PortItem)
    (len : payload.length = headerLen h) (unknown : (headerOp h).toNat = 0 ∨ 7 ≤ (headerOp h).toNat)
    (port : s.cmdPort = (h :: payload).map .word ++ after) :
    step s = raise .illegalCommand { s with cmdPort := after } := by
  rw [step_of_words s _ _ port, stepPacket, port, presentedWords_append, decode_of_unknownOp h payload _ len unknown]
  exact congrArg (raise .illegalCommand) (takePacket_presentedWords after s)

end Sys2Proof.Machine
end

section
/-! PROOFS. Errors (spec/60_exceptions.md R150 to R156): which check refuses which command, with the error it raises. A
refused command is answered that error and nothing else; every other command is answered OK. So the error in the
response says which check failed. -/

namespace Sys2Proof.Machine

theorem exec_reconstruct (arg : Octet) (p : List Word) (s : State) :
    exec (.reconstruct arg p) s = execReconstruct arg p s := rfl

/-- R156: the first check a command fails, as the error it raises. -/
inductive RefusedWith : Instr → CommandError → Prop where
  | seedArg {arg p} (wrongArg : arg ≠ 0#8) : RefusedWith (.seed arg p) .illegalCommand
  | seedWide {arg p} (zeroArg : arg = 0#8) (wide : 2 ≤ p.length) : RefusedWith (.seed arg p) .invalidSeed
  | nextPayload {arg p} (hasPayload : p.length ≠ 0) : RefusedWith (.next arg p) .illegalCommand
  | nextWidth {arg p} (noPayload : p.length = 0) (wrongWidth : arg ≠ 32#8) :
    RefusedWith (.next arg p) .unsupportedBitWidth
  | reconstructArg {arg p} (wrongArg : arg ≠ 0#8) : RefusedWith (.reconstruct arg p) .illegalCommand
  | reconstructLength {arg p} (zeroArg : arg = 0#8) (wrongLength : p.length ≠ 624) :
    RefusedWith (.reconstruct arg p) .invalidReconstructionInput
  | temper {arg p} (illegal : arg ≠ 0#8 ∨ p.length ≠ 1) : RefusedWith (.temper arg p) .illegalCommand
  | untemper {arg p} (illegal : arg ≠ 0#8 ∨ p.length ≠ 1) : RefusedWith (.untemper arg p) .illegalCommand
  | twist {arg p} (illegal : arg ≠ 0#8 ∨ p.length ≠ 0) : RefusedWith (.twist arg p) .illegalCommand

/-- R153: the whole effect of a refused command is the error's response. -/
theorem exec_of_refusedWith {i : Instr} {e : CommandError} (refused : RefusedWith i e) (s : State) :
    exec i s = .next (respond (.error e) s) := by
  cases refused with
  | seedArg wrongArg => exact execSeed_of_arg _ _ s wrongArg
  | seedWide zeroArg wide => rw [zeroArg, exec_seed, execSeed_of_wide _ s wide]
  | nextPayload hasPayload => exact execNext_of_payload _ _ s hasPayload
  | nextWidth noPayload wrongWidth =>
    rw [List.eq_nil_of_length_eq_zero noPayload, exec_next, execNext_of_width _ s wrongWidth]
  | reconstructArg wrongArg => exact execReconstruct_of_arg _ _ s wrongArg
  | reconstructLength zeroArg wrongLength =>
    rw [zeroArg, exec_reconstruct, execReconstruct_of_length _ s wrongLength]
  | temper illegal => exact execTemper_of_illegal _ _ s illegal
  | untemper illegal => exact execUntemper_of_illegal _ _ s illegal
  | twist illegal => exact execTwist_of_illegal _ _ s illegal

theorem eq_respond_of_refusedWith {i : Instr} {e : CommandError} {s t : State} (refused : RefusedWith i e)
    (run : exec i s = .next t) : t = respond (.error e) s :=
  Host.Outcome.next.inj (run.symm.trans (exec_of_refusedWith refused s))

/-- R61: the command is answered OK with no data word. -/
def AnswersOk (i : Instr) (s : State) : Prop :=
  ∃ t, exec i s = .next t ∧ t.respPort = s.respPort ++ [0x00000000#32]

/-- R61: the command is answered OK with one data word. -/
def AnswersOkWord (i : Instr) (s : State) : Prop :=
  ∃ t w, exec i s = .next t ∧ t.respPort = s.respPort ++ [0x00000001#32, w]

theorem answersOk_seed {arg : Octet} {p : List Word} (zeroArg : arg = 0#8) (short : p.length ≤ 1) (s : State) :
    AnswersOk (.seed arg p) s := by
  have operand : seedOperand p ≠ none := fun h => absurd ((seedOperand_eq_none p).mp h) (by omega)
  obtain ⟨v, hv⟩ := Option.ne_none_iff_exists'.mp operand
  exact ⟨_, zeroArg ▸ execSeed_of_operand p v s hv, by simp⟩

theorem answersOkWord_next {arg : Octet} {p : List Word} (noPayload : p.length = 0) (width : arg = 32#8) (s : State) :
    AnswersOkWord (.next arg p) s := by
  obtain rfl := List.eq_nil_of_length_eq_zero noPayload
  exact ⟨_, temper (selectedWord s), width ▸ execNext_of_legal s, by simp⟩

theorem answersOk_reconstruct {arg : Octet} {p : List Word} (zeroArg : arg = 0#8) (len : p.length = 624) (s : State) :
    AnswersOk (.reconstruct arg p) s := by
  have operand : observedOperand p ≠ none := fun h => (observedOperand_eq_none p).mp h len
  obtain ⟨o, ho⟩ := Option.ne_none_iff_exists'.mp operand
  exact ⟨_, zeroArg ▸ execReconstruct_of_operand p o s ho, by simp⟩

theorem answersOkWord_temper {arg : Octet} {p : List Word} (zeroArg : arg = 0#8) (len : p.length = 1) (s : State) :
    AnswersOkWord (.temper arg p) s := by
  obtain ⟨x, rfl⟩ := List.length_eq_one_iff.mp len
  exact ⟨_, temper x, zeroArg ▸ execTemper_of_legal x s, by simp⟩

theorem answersOkWord_untemper {arg : Octet} {p : List Word} (zeroArg : arg = 0#8) (len : p.length = 1) (s : State) :
    AnswersOkWord (.untemper arg p) s := by
  obtain ⟨y, rfl⟩ := List.length_eq_one_iff.mp len
  exact ⟨_, untemper y, zeroArg ▸ execUntemper_of_legal y s, by simp⟩

theorem answersOk_twist {arg : Octet} {p : List Word} (zeroArg : arg = 0#8) (noPayload : p.length = 0) (s : State) :
    AnswersOk (.twist arg p) s := by
  obtain rfl := List.eq_nil_of_length_eq_zero noPayload
  exact ⟨_, zeroArg ▸ execTwist_of_legal s, by simp⟩

/-- Settles O9: the step is the command's on the state whose packet has been taken; then each clause is one check, or
the command's OK. -/
theorem errorsFollowTheOrderOfChecks : Obligations.ErrorsFollowTheOrderOfChecks := by
  unfold Obligations.ErrorsFollowTheOrderOfChecks
  refine ⟨fun s h payload after len unknown port => ?_, fun s i after wf port => ?_⟩
  · rw [step_of_unknownOp s h payload after len unknown port, raise_eq, respond, words_illegalCommand]
  · rw [step_of_command s i after wf port]
    have refused {e : CommandError} (h : RefusedWith i e) := exec_of_refusedWith h { s with cmdPort := after }
    simp only [respond] at refused
    cases i with
    | seed arg p =>
      exact ⟨fun wrongArg => refused (.seedArg wrongArg), fun ⟨zeroArg, wide⟩ => refused (.seedWide zeroArg wide),
        fun ⟨zeroArg, short⟩ => answersOk_seed zeroArg short _⟩
    | next arg p =>
      exact ⟨fun hasPayload => refused (.nextPayload hasPayload),
        fun ⟨noPayload, wrongWidth⟩ => refused (.nextWidth noPayload wrongWidth),
        fun ⟨noPayload, width⟩ => answersOkWord_next noPayload width _⟩
    | reconstruct arg p =>
      exact ⟨fun wrongArg => refused (.reconstructArg wrongArg),
        fun ⟨zeroArg, wrongLength⟩ => refused (.reconstructLength zeroArg wrongLength),
        fun ⟨zeroArg, len⟩ => answersOk_reconstruct zeroArg len _⟩
    | temper arg p =>
      exact ⟨fun illegal => refused (.temper illegal),
        fun ⟨zeroArg, len⟩ => answersOkWord_temper zeroArg len _⟩
    | untemper arg p =>
      exact ⟨fun illegal => refused (.untemper illegal),
        fun ⟨zeroArg, len⟩ => answersOkWord_untemper zeroArg len _⟩
    | twist arg p =>
      exact ⟨fun illegal => refused (.twist illegal),
        fun ⟨zeroArg, noPayload⟩ => answersOk_twist zeroArg noPayload _⟩

/-- The checks are complete: a command that fails none is answered OK. -/
theorem refusedWith_or_answersOk (i : Instr) (s : State) :
    (∃ e, RefusedWith i e) ∨ AnswersOk i s ∨ AnswersOkWord i s := by
  cases i with
  | seed arg p =>
    by_cases zeroArg : arg = 0#8
    · by_cases wide : 2 ≤ p.length
      · exact .inl ⟨_, .seedWide zeroArg wide⟩
      · exact .inr (.inl (answersOk_seed zeroArg (by omega) s))
    · exact .inl ⟨_, .seedArg zeroArg⟩
  | next arg p =>
    by_cases noPayload : p.length = 0
    · by_cases width : arg = 32#8
      · exact .inr (.inr (answersOkWord_next noPayload width s))
      · exact .inl ⟨_, .nextWidth noPayload width⟩
    · exact .inl ⟨_, .nextPayload noPayload⟩
  | reconstruct arg p =>
    by_cases zeroArg : arg = 0#8
    · by_cases len : p.length = 624
      · exact .inr (.inl (answersOk_reconstruct zeroArg len s))
      · exact .inl ⟨_, .reconstructLength zeroArg len⟩
    · exact .inl ⟨_, .reconstructArg zeroArg⟩
  | temper arg p =>
    by_cases legal : arg = 0#8 ∧ p.length = 1
    · exact .inr (.inr (answersOkWord_temper legal.1 legal.2 s))
    · exact .inl ⟨_, .temper (not_and_or.mp legal)⟩
  | untemper arg p =>
    by_cases legal : arg = 0#8 ∧ p.length = 1
    · exact .inr (.inr (answersOkWord_untemper legal.1 legal.2 s))
    · exact .inl ⟨_, .untemper (not_and_or.mp legal)⟩
  | twist arg p =>
    by_cases legal : arg = 0#8 ∧ p.length = 0
    · exact .inr (.inl (answersOk_twist legal.1 legal.2 s))
    · exact .inl ⟨_, .twist (not_and_or.mp legal)⟩

/-- R150: the four errors have four different responses. -/
theorem words_error_injective (d e : CommandError) (h : (Response.error d).words = (Response.error e).words) :
    d = e := by
  cases d <;> cases e <;> simp at h ⊢

/-- R150, R61: no error has the response of an OK. -/
theorem words_error_ne_ok (e : CommandError) : (Response.error e).words ≠ [0x00000000#32] := by
  cases e <;> simp

theorem words_error_ne_okWord (e : CommandError) (w : Word) : (Response.error e).words ≠ [0x00000001#32, w] := by
  simp [Response.words, Response.data]

/-- A command is answered an error exactly when the check that raises it refuses the command. -/
theorem respPort_error_iff_refusedWith {i : Instr} {s t : State} (run : exec i s = .next t) (e : CommandError) :
    t.respPort = s.respPort ++ (Response.error e).words ↔ RefusedWith i e := by
  constructor
  · intro answered
    rcases refusedWith_or_answersOk i s with ⟨d, refused⟩ | ⟨u, ok, port⟩ | ⟨u, w, ok, port⟩
    · rw [eq_respond_of_refusedWith refused run] at answered
      rwa [← words_error_injective d e (List.append_cancel_left answered)]
    · obtain rfl := Host.Outcome.next.inj (ok.symm.trans run)
      exact absurd (List.append_cancel_left (answered.symm.trans port)) (words_error_ne_ok e)
    · obtain rfl := Host.Outcome.next.inj (ok.symm.trans run)
      exact absurd (List.append_cancel_left (answered.symm.trans port)) (words_error_ne_okWord e w)
  · intro refused
    rw [eq_respond_of_refusedWith refused run, respond_respPort]

/-- R158: every command is answered, so none stops the block. -/
theorem exec_eq_next (i : Instr) (s : State) : ∃ t, exec i s = .next t := by
  rcases refusedWith_or_answersOk i s with ⟨e, refused⟩ | ⟨t, ok, -⟩ | ⟨t, -, ok, -⟩
  · exact ⟨_, exec_of_refusedWith refused s⟩
  · exact ⟨t, ok⟩
  · exact ⟨t, ok⟩

/-- R151: the one cause of InvalidSeed. -/
theorem refusedWith_invalidSeed_iff (i : Instr) :
    RefusedWith i .invalidSeed ↔ ∃ p, i = .seed 0#8 p ∧ 2 ≤ p.length := by
  constructor
  · intro refused
    cases refused with
    | seedWide zeroArg wide => exact ⟨_, by rw [zeroArg], wide⟩
  · rintro ⟨p, rfl, wide⟩
    exact .seedWide rfl wide

/-- R152: the one cause of InvalidReconstructionInput. -/
theorem refusedWith_invalidReconstructionInput_iff (i : Instr) :
    RefusedWith i .invalidReconstructionInput ↔ ∃ p, i = .reconstruct 0#8 p ∧ p.length ≠ 624 := by
  constructor
  · intro refused
    cases refused with
    | reconstructLength zeroArg wrongLength => exact ⟨_, by rw [zeroArg], wrongLength⟩
  · rintro ⟨p, rfl, wrongLength⟩
    exact .reconstructLength rfl wrongLength

/-- R155: the one cause of UnsupportedBitWidth. -/
theorem refusedWith_unsupportedBitWidth_iff (i : Instr) :
    RefusedWith i .unsupportedBitWidth ↔ ∃ arg, i = .next arg [] ∧ arg ≠ 32#8 := by
  constructor
  · intro refused
    cases refused with
    | nextWidth noPayload wrongWidth => exact ⟨_, by rw [List.eq_nil_of_length_eq_zero noPayload], wrongWidth⟩
  · rintro ⟨arg, rfl, wrongWidth⟩
    exact .nextWidth rfl wrongWidth

/-- R153: an error's response leaves the block as it was. -/
theorem sameBlock_of_respPort_error {i : Instr} {s t : State} (run : exec i s = .next t) (e : CommandError)
    (answered : t.respPort = s.respPort ++ (Response.error e).words) : SameBlock t s := by
  rw [eq_respond_of_refusedWith ((respPort_error_iff_refusedWith run e).mp answered) run]
  exact ⟨rfl, rfl⟩

/-- Settles O11: the response names the check that refused the command, and a refusal leaves the block. -/
theorem eachNamedErrorHasExactlyItsCause : Obligations.EachNamedErrorHasExactlyItsCause := by
  unfold Obligations.EachNamedErrorHasExactlyItsCause
  intro i s
  obtain ⟨t, run⟩ := exec_eq_next i s
  rw [← words_invalidSeed, ← words_invalidReconstructionInput, ← words_unsupportedBitWidth]
  refine ⟨t, run, ?_, ?_, ?_, ?_⟩
  · exact (respPort_error_iff_refusedWith run _).trans (refusedWith_invalidSeed_iff i)
  · exact (respPort_error_iff_refusedWith run _).trans (refusedWith_invalidReconstructionInput_iff i)
  · exact (respPort_error_iff_refusedWith run _).trans (refusedWith_unsupportedBitWidth_iff i)
  · rintro (answered | answered | answered) <;> exact sameBlock_of_respPort_error run _ answered

end Sys2Proof.Machine
end

section
/-! PROOFS. Reset (spec/70_reset_and_hazards.md R180): the seeded array does not depend on the array the seeding loop
starts from, so the reset array is that of SEED 0 on any state. -/

namespace Sys2Proof.Machine

/-- R26: the seeding loop overwrites every word it starts from. -/
theorem seedArray_eq_seedArray (v : Word) (mt mt' : MT) : seedArray v mt = seedArray v mt' :=
  readWord_ext _ _ fun k => by rw [readWord_seedArray, readWord_seedArray]

/-- R180: a legal SEED of the default seed leaves the reset block. -/
theorem sameBlock_reset_of_seed (s : State) (r : Response) :
    SameBlock State.reset (respond r (loadArray (seedArray defaultSeed s.mt) s)) :=
  ⟨seedArray_eq_seedArray defaultSeed _ s.mt, rfl⟩

/-- The words R180 lists after word 0, among the words seed 0 gives. -/
theorem seedList_zero_listed :
    (seedList 0#32)[1]? = some 0x00000001#32 ∧ (seedList 0#32)[2]? = some 0x6c078967#32 ∧
    (seedList 0#32)[3]? = some 0x714acb41#32 ∧ (seedList 0#32)[623]? = some 0x6b1a1930#32 := by
  decide +kernel

/-- Settles O33: the reset array is the seeded array of seed 0, so its words are those of the recurrence. -/
theorem resetIsTheStateAfterSeedZero : Obligations.ResetIsTheStateAfterSeedZero := by
  unfold Obligations.ResetIsTheStateAfterSeedZero
  obtain ⟨word1, word2, word3, word623⟩ := seedList_zero_listed
  refine ⟨fun s => ⟨_, execSeed_of_operand [0#32] 0#32 s rfl, sameBlock_reset_of_seed s .ok⟩,
    readWord_seedArray_zero 0#32 _, toNat_readWord_seedArray 0#32 _, ?_, ?_, ?_, ?_, rfl⟩
  · exact readWord_seedArray_eval 0#32 _ 1 _ word1
  · exact readWord_seedArray_eval 0#32 _ 2 _ word2
  · exact readWord_seedArray_eval 0#32 _ 3 _ word3
  · exact readWord_seedArray_eval 0#32 _ 623 _ word623

end Sys2Proof.Machine
end

section
/-! PROOFS. Decoding (spec/30_encoding.md R60 to R67): a whole packet is the packet of the command its `OP` selects or
has an unknown `OP`; a list that stops short is no command. -/

namespace Sys2Proof.Machine

/-- Settles O3: the payload is as long as the header announces, and the three fields select the command. -/
theorem decodeOfEncodeIsTheCommand : Obligations.DecodeOfEncodeIsTheCommand := by
  unfold Obligations.DecodeOfEncodeIsTheCommand
  exact decode_encode_append

theorem headerLen_lt (h : Word) : headerLen h < 65536 := BitVec.isLt _

/-- The command a whole packet selects has that packet, since a header is determined by its fields. -/
theorem encode_of_selectCommand {h : Word} {payload : List Word} {i : Instr} (len : payload.length = headerLen h)
    (selected : selectCommand (headerOp h) (headerArg h) payload = some i) : encode i = h :: payload := by
  obtain ⟨op, arg, words⟩ := selectCommand_eq_some _ _ _ _ selected
  rw [encode, op, arg, words, len, makeHeader_fields]

theorem wellFormed_of_selectCommand {h : Word} {payload : List Word} {i : Instr} (len : payload.length = headerLen h)
    (selected : selectCommand (headerOp h) (headerArg h) payload = some i) : i.wellFormed = true := by
  obtain ⟨-, -, words⟩ := selectCommand_eq_some _ _ _ _ selected
  rw [Instr.wellFormed, words, len]
  exact decide_eq_true (headerLen_lt h)

theorem decode_of_selectCommand {h : Word} {payload : List Word} {i : Instr} (rest : List Word)
    (len : payload.length = headerLen h) (selected : selectCommand (headerOp h) (headerArg h) payload = some i) :
    decode (h :: payload ++ rest) = .command i rest := by
  simp [decode, takeWords_headerLen h payload rest len, selected]

/-- R67: fewer words than the header announces are no packet. -/
theorem decode_of_short (h : Word) (ws : List Word) (short : ws.length < headerLen h) :
    decode (h :: ws) = .incomplete := by
  simp [decode, (takeWords_eq_none _ _).mpr short]

/-- Everything a list that decodes to a command can be: a whole packet that selects it, and the words left over. -/
theorem decode_eq_command {ws rest : List Word} {i : Instr} (decoded : decode ws = .command i rest) :
    ∃ h payload, ws = h :: payload ++ rest ∧ payload.length = headerLen h ∧
      selectCommand (headerOp h) (headerArg h) payload = some i := by
  cases ws with
  | nil => simp [decode] at decoded
  | cons h ws =>
    simp only [decode] at decoded
    split at decoded
    · simp at decoded
    · rename_i payload left taken
      split at decoded
      · rename_i j selected
        obtain ⟨rfl, rfl⟩ := Decoded.command.inj decoded
        obtain ⟨rfl, len⟩ := takeWords_eq_some _ _ _ _ taken
        exact ⟨h, payload, rfl, len, selected⟩
      · simp at decoded

/-- Settles O4: the list is a whole packet that selects the command, so it is the command's packet. -/
theorem decodedCommandIsItsOwnPacket : Obligations.DecodedCommandIsItsOwnPacket := by
  unfold Obligations.DecodedCommandIsItsOwnPacket
  intro ws rest i decoded
  obtain ⟨h, payload, rfl, len, selected⟩ := decode_eq_command decoded
  exact ⟨wellFormed_of_selectCommand len selected, by rw [encode_of_selectCommand len selected]⟩

/-- Settles O5: inside 1..6 the `OP` selects a command, outside it selects none. -/
theorem decodingIsTotalOnWholePackets : Obligations.DecodingIsTotalOnWholePackets := by
  unfold Obligations.DecodingIsTotalOnWholePackets
  intro h payload rest len
  have selectsNone := selectCommand_eq_none (headerOp h) (headerArg h) payload
  split
  next known =>
    have selects : selectCommand (headerOp h) (headerArg h) payload ≠ none := fun noCommand => by
      have outside := selectsNone.mp noCommand
      omega
    obtain ⟨i, selected⟩ := Option.ne_none_iff_exists'.mp selects
    exact ⟨i, decode_of_selectCommand rest len selected, encode_of_selectCommand len selected,
      selectCommand_eq_some _ _ _ _ selected⟩
  next unknown => exact decode_of_unknownOp h payload rest len (by omega)

/-- Settles O2: each packet is decoded as it stands. -/
theorem writtenOutPacketsDecode : Obligations.WrittenOutPacketsDecode := by
  unfold Obligations.WrittenOutPacketsDecode
  decide

/-- Settles O1: the packet decodes to its command, and taking it leaves what was presented after it. -/
theorem stepExecutesTheNextPacket : Obligations.StepExecutesTheNextPacket := by
  unfold Obligations.StepExecutesTheNextPacket
  exact step_of_command

/-- Settles O6: with nothing presented there is nothing to decode; short words decode to no packet, and what stands
after them names the refusal. -/
theorem noStepWithoutAWholePacket : Obligations.NoStepWithoutAWholePacket := by
  unfold Obligations.NoStepWithoutAWholePacket
  refine ⟨step_of_idle, fun s h ws short port => ?_, fun s h ws items short port => ?_⟩
  · rw [← List.append_nil ((h :: ws).map PortItem.word)] at port
    rw [step_of_words s _ _ port, stepPacket, port, presentedWords_append]
    simp [decode_of_short h ws short]
  · rw [step_of_words s _ _ port, stepPacket, port, presentedWords_append]
    simp [decode_of_short h ws short]

end Sys2Proof.Machine
end

section
/-! PROOFS. What a command answers and leaves (spec/30_encoding.md R61, R63; spec/10_state.md R22 to R30): a command
whose packet is not legal is answered an error with nothing else changed; a legal one is one of the six runs of
`LegalRun`. The statements about all commands are read off these two. -/

namespace Sys2Proof.Machine

/-! ## Legal and refused commands -/

/-- R63: a legal command, the OK response it is answered, and the block it leaves, the response not yet sent. -/
inductive LegalRun (s : State) : Instr → Response → State → Prop where
  | seed {p v} (operand : seedOperand p = some v) :
    LegalRun s (.seed 0#8 p) .ok (loadArray (seedArray v s.mt) s)
  | next : LegalRun s (.next 32#8 []) (.okWord (temper (selectedWord s))) (advance s)
  | reconstruct {p o} (operand : observedOperand p = some o) :
    LegalRun s (.reconstruct 0#8 p) .ok (loadArray (reconstructArray o s.mt) s)
  | temper {x} : LegalRun s (.temper 0#8 [x]) (.okWord (temper x)) s
  | untemper {y} : LegalRun s (.untemper 0#8 [y]) (.okWord (untemper y)) s
  | twist : LegalRun s (.twist 0#8 []) .ok (twist s)

theorem exec_of_legalRun {s u : State} {i : Instr} {r : Response} (run : LegalRun s i r u) :
    exec i s = .next (respond r u) := by
  cases run with
  | seed operand => exact execSeed_of_operand _ _ s operand
  | next => exact execNext_of_legal s
  | reconstruct operand => exact execReconstruct_of_operand _ _ s operand
  | temper => exact execTemper_of_legal _ s
  | untemper => exact execUntemper_of_legal _ s
  | twist => exact execTwist_of_legal s

theorem exists_seedOperand {p : List Word} (short : p.length ≤ 1) : ∃ v, seedOperand p = some v :=
  Option.ne_none_iff_exists'.mp fun h => absurd ((seedOperand_eq_none p).mp h) (by omega)

theorem exists_observedOperand {p : List Word} (len : p.length = 624) : ∃ o, observedOperand p = some o :=
  Option.ne_none_iff_exists'.mp fun h => (observedOperand_eq_none p).mp h len

theorem exists_legalRun {i : Instr} (legal : i.legal = true) (s : State) : ∃ r u, LegalRun s i r u := by
  cases i with
  | seed arg p =>
    obtain ⟨rfl, short⟩ : arg = 0#8 ∧ p.length ≤ 1 := by simpa [Instr.legal] using legal
    obtain ⟨v, operand⟩ := exists_seedOperand short
    exact ⟨_, _, .seed operand⟩
  | next arg p =>
    obtain ⟨rfl, rfl⟩ : arg = 32#8 ∧ p = [] := by simpa [Instr.legal] using legal
    exact ⟨_, _, .next⟩
  | reconstruct arg p =>
    obtain ⟨rfl, len⟩ : arg = 0#8 ∧ p.length = 624 := by simpa [Instr.legal] using legal
    obtain ⟨o, operand⟩ := exists_observedOperand len
    exact ⟨_, _, .reconstruct operand⟩
  | temper arg p =>
    obtain ⟨rfl, len⟩ : arg = 0#8 ∧ p.length = 1 := by simpa [Instr.legal] using legal
    obtain ⟨x, rfl⟩ := List.length_eq_one_iff.mp len
    exact ⟨_, _, .temper⟩
  | untemper arg p =>
    obtain ⟨rfl, len⟩ : arg = 0#8 ∧ p.length = 1 := by simpa [Instr.legal] using legal
    obtain ⟨y, rfl⟩ := List.length_eq_one_iff.mp len
    exact ⟨_, _, .untemper⟩
  | twist arg p =>
    obtain ⟨rfl, rfl⟩ : arg = 0#8 ∧ p = [] := by simpa [Instr.legal] using legal
    exact ⟨_, _, .twist⟩

/-- R156: a packet that is not legal fails one of its command's checks. -/
theorem exists_refusedWith {i : Instr} (illegal : i.legal = false) : ∃ e, RefusedWith i e := by
  cases i with
  | seed arg p =>
    by_cases zeroArg : arg = 0#8
    · have wide : 1 < p.length := by simpa [Instr.legal, zeroArg] using illegal
      exact ⟨_, .seedWide zeroArg wide⟩
    · exact ⟨_, .seedArg zeroArg⟩
  | next arg p =>
    by_cases noPayload : p.length = 0
    · have wrongWidth : arg ≠ 32#8 := by simpa [Instr.legal, noPayload] using illegal
      exact ⟨_, .nextWidth noPayload wrongWidth⟩
    · exact ⟨_, .nextPayload noPayload⟩
  | reconstruct arg p =>
    by_cases zeroArg : arg = 0#8
    · have wrongLength : p.length ≠ 624 := by simpa [Instr.legal, zeroArg] using illegal
      exact ⟨_, .reconstructLength zeroArg wrongLength⟩
    · exact ⟨_, .reconstructArg zeroArg⟩
  | temper arg p => exact ⟨_, .temper (not_and_or.mp (by simpa [Instr.legal] using illegal))⟩
  | untemper arg p => exact ⟨_, .untemper (not_and_or.mp (by simpa [Instr.legal] using illegal))⟩
  | twist arg p => exact ⟨_, .twist (not_and_or.mp (by simpa [Instr.legal] using illegal))⟩

/-- Everything a command can do: run its legal packet, or be refused with nothing else changed. -/
theorem exec_cases (i : Instr) (s : State) :
    (i.legal = true ∧ ∃ r u, LegalRun s i r u ∧ exec i s = .next (respond r u)) ∨
    (i.legal = false ∧ ∃ e, exec i s = .next (respond (.error e) s)) := by
  cases legal : i.legal with
  | true =>
    obtain ⟨r, u, run⟩ := exists_legalRun legal s
    exact .inl ⟨rfl, r, u, run, exec_of_legalRun run⟩
  | false =>
    obtain ⟨e, refused⟩ := exists_refusedWith legal
    exact .inr ⟨rfl, e, exec_of_refusedWith refused s⟩

/-- The same of a command that has given a next state. -/
theorem exec_next_cases {i : Instr} {s t : State} (answered : exec i s = .next t) :
    (i.legal = true ∧ ∃ r u, LegalRun s i r u ∧ t = respond r u) ∨
    (i.legal = false ∧ ∃ e, t = respond (.error e) s) := by
  obtain ⟨legal, r, u, run, executed⟩ | ⟨illegal, e, executed⟩ := exec_cases i s
  · exact .inl ⟨legal, r, u, run, Host.Outcome.next.inj (answered.symm.trans executed)⟩
  · exact .inr ⟨illegal, e, Host.Outcome.next.inj (answered.symm.trans executed)⟩

/-- A legal run leaves both ports to the response. -/
theorem ports_of_legalRun {s u : State} {i : Instr} {r : Response} (run : LegalRun s i r u) :
    u.cmdPort = s.cmdPort ∧ u.respPort = s.respPort := by
  cases run <;> exact ⟨rfl, rfl⟩

theorem status_of_legalRun {s u : State} {i : Instr} {r : Response} (run : LegalRun s i r u) :
    r.status = 0#8 := by
  cases run <;> rfl

/-- R61: each command appends one response and leaves what is presented. -/
theorem exec_appends_response (i : Instr) (s : State) :
    ∃ (t : State) (r : Response), exec i s = .next t ∧ t.cmdPort = s.cmdPort ∧
      t.respPort = s.respPort ++ r.words := by
  obtain ⟨-, r, u, run, executed⟩ | ⟨-, e, executed⟩ := exec_cases i s
  · obtain ⟨cmd, resp⟩ := ports_of_legalRun run
    exact ⟨_, r, executed, cmd, by rw [respond_respPort, resp]⟩
  · exact ⟨_, .error e, executed, rfl, rfl⟩

/-- Settles O7: the packet is that of a command, which appends one response, or its unknown `OP` is answered an error.
-/
theorem everyWholePacketIsTakenAndAnswered : Obligations.EveryWholePacketIsTakenAndAnswered := by
  unfold Obligations.EveryWholePacketIsTakenAndAnswered
  intro s h payload after len port
  cases selected : selectCommand (headerOp h) (headerArg h) payload with
  | some i =>
    rw [← encode_of_selectCommand len selected] at port
    rw [step_of_command s i after (wellFormed_of_selectCommand len selected) port]
    obtain ⟨t, r, executed, cmd, resp⟩ := exec_appends_response i { s with cmdPort := after }
    exact ⟨t, r, executed, cmd, resp⟩
  | none =>
    have unknown := (selectCommand_eq_none _ _ _).mp selected
    exact ⟨_, .error .illegalCommand, step_of_unknownOp s h payload after len unknown port, rfl, rfl⟩

/-! ## The response of each command -/

theorem errorCode_injective : Function.Injective errorCode := by
  intro d e h
  cases d <;> cases e <;> simp [errorCode] at h ⊢

theorem errorCode_ne_zero (e : CommandError) : errorCode e ≠ 0#8 := by
  cases e <;> decide

/-- R61: the six header values, and the most data words a response has. -/
theorem header_values (r : Response) :
    responseHeader r.status r.data.length ∈
      [0x00000000#32, 0x00000001#32, 0x01000000#32, 0x02000000#32, 0x03000000#32, 0x04000000#32] ∧
    r.data.length ≤ 1 := by
  rcases r with _ | v | e
  · decide
  · simp only [Response.status, Response.data, List.length_singleton]
    decide
  · cases e <;> decide

/-! A response header is assembled as a command header is, with 0 for `ARG`. -/

theorem header_status (r : Response) : (responseHeader r.status r.data.length).extractLsb' 24 8 = r.status :=
  headerOp_makeHeader r.status 0#8 r.data.length

theorem header_zeros (r : Response) : (responseHeader r.status r.data.length).extractLsb' 16 8 = 0#8 :=
  headerArg_makeHeader r.status 0#8 r.data.length

theorem header_rlen (r : Response) :
    ((responseHeader r.status r.data.length).extractLsb' 0 16).toNat = r.data.length := by
  have short := (header_values r).2
  exact (headerLen_makeHeader r.status 0#8 r.data.length).trans (Nat.mod_eq_of_lt (by omega))

/-- Settles O10: the two ways of `exec_cases`, the response being an OK or one error header. -/
theorem illegalCommandsChangeNothing : Obligations.IllegalCommandsChangeNothing := by
  unfold Obligations.IllegalCommandsChangeNothing
  intro i s
  obtain ⟨legal, r, u, run, executed⟩ | ⟨illegal, e, executed⟩ := exec_cases i s
  · rw [if_pos legal]
    obtain ⟨-, resp⟩ := ports_of_legalRun run
    refine ⟨_, responseHeader r.status r.data.length, r.data, executed, by rw [respond_respPort, resp]; rfl, ?_⟩
    rw [header_status, status_of_legalRun run]
  · rw [if_neg (by simp [illegal])]
    exact ⟨e, executed⟩

/-- Settles O8: the header's shape is the response's; a legal NEXT, TEMPER or UNTEMPER has the data word, every other
legal command none, and a refused one has a nonzero status. -/
theorem responseHasTheShapeOfItsStatus : Obligations.ResponseHasTheShapeOfItsStatus := by
  unfold Obligations.ResponseHasTheShapeOfItsStatus
  intro i s
  obtain ⟨-, r, u, run, executed⟩ | ⟨-, e, executed⟩ := exec_cases i s
  · obtain ⟨cmd, resp⟩ := ports_of_legalRun run
    obtain ⟨oneOfSix, short⟩ := header_values r
    refine ⟨_, _, r.data, executed, cmd, by rw [respond_respPort, resp]; rfl, oneOfSix, header_zeros r, header_rlen r,
      short, ?_⟩
    rw [header_status, status_of_legalRun run]
    cases run <;> simp [Response.data]
  · obtain ⟨oneOfSix, short⟩ := header_values (.error e)
    refine ⟨_, _, [], executed, rfl, rfl, oneOfSix, header_zeros (.error e), header_rlen (.error e), short, ?_⟩
    have failed : (Response.error e).status ≠ 0#8 := errorCode_ne_zero e
    rw [header_status]
    simp [failed]

/-! ## The block a command leaves -/

/-- Settles O14: a legal run changes the array only as the listed commands do, and a refusal not at all. -/
theorem onlyFourCommandsChangeTheArray : Obligations.OnlyFourCommandsChangeTheArray := by
  unfold Obligations.OnlyFourCommandsChangeTheArray
  intro i s t answered
  obtain ⟨legal, r, u, run, rfl⟩ | ⟨-, e, rfl⟩ := exec_next_cases answered
  · refine ⟨(ports_of_legalRun run).1, fun changed => ⟨legal, ?_⟩⟩
    cases run with
    | next =>
      by_contra notExhausted
      have below : s.idx.val < 624 := by omega
      exact changed (by simp [readyArray_of_lt s below])
    | temper | untemper => exact changed rfl
    | seed | reconstruct | twist => trivial
  · exact ⟨rfl, fun changed => absurd rfl changed⟩

/-- R24, R140: NEXT leaves the cursor one above the index it selected from, which is 0 when it twisted. -/
theorem advance_idx_val (s : State) :
    (advance s).idx.val = if s.idx.val = 624 then 1 else s.idx.val + 1 := by
  split
  next exhausted => simp [readyArray_of_exhausted s exhausted]
  next notExhausted =>
    have below : s.idx.val < 624 := by omega
    simp [readyArray_of_lt s below]

/-- Settles O15: the cursor of each legal run; a refusal leaves it. -/
theorem cursorWritesAreTheListedOnes : Obligations.CursorWritesAreTheListedOnes := by
  unfold Obligations.CursorWritesAreTheListedOnes
  intro i s t answered
  obtain ⟨legal, r, u, run, rfl⟩ | ⟨illegal, e, rfl⟩ := exec_next_cases answered
  · rw [if_neg (by simp [legal]), respond_idx]
    cases run with
    | next => exact advance_idx_val s
    | seed | reconstruct | twist | temper | untemper => rfl
  · rw [if_pos illegal, respond_idx]

/-! ## The block decides the answer (R30, R186) -/

theorem readyArray_of_sameBlock {s s' : State} (same : SameBlock s s') : readyArray s = readyArray s' := by
  obtain ⟨mt, idx⟩ := same
  simp only [readyArray, mt, idx]

theorem reconstructArray_eq_reconstructArray (o mt mt' : MT) : reconstructArray o mt = reconstructArray o mt' :=
  readWord_ext _ _ fun k => by rw [readWord_reconstructArray, readWord_reconstructArray]

theorem legalRun_of_sameBlock {s s' u : State} {i : Instr} {r : Response} (run : LegalRun s i r u)
    (same : SameBlock s s') : ∃ u', LegalRun s' i r u' ∧ SameBlock u u' := by
  have ready := readyArray_of_sameBlock same
  cases run with
  | seed operand => exact ⟨_, .seed operand, seedArray_eq_seedArray _ _ _, rfl⟩
  | next =>
    rw [selectedWord_eq_of_readyArray_eq s s' ready]
    exact ⟨_, .next, sameBlock_advance_of_readyArray_eq s s' ready⟩
  | reconstruct operand => exact ⟨_, .reconstruct operand, reconstructArray_eq_reconstructArray _ _ _, rfl⟩
  | temper => exact ⟨_, .temper, same⟩
  | untemper => exact ⟨_, .untemper, same⟩
  | twist => exact ⟨_, .twist, congrArg twistArray same.1, rfl⟩

/-- R186: equal blocks give a command the same response and are left equal. -/
theorem exec_of_sameBlock (i : Instr) {s s' : State} (same : SameBlock s s') :
    ∃ (t t' : State) (ws : List Word), exec i s = .next t ∧ exec i s' = .next t' ∧ SameBlock t t' ∧
      t.respPort = s.respPort ++ ws ∧ t'.respPort = s'.respPort ++ ws := by
  cases legal : i.legal with
  | true =>
    obtain ⟨r, u, run⟩ := exists_legalRun legal s
    obtain ⟨u', run', same'⟩ := legalRun_of_sameBlock run same
    refine ⟨_, _, r.words, exec_of_legalRun run, exec_of_legalRun run', (sameBlock_respond _ _ _ _).mpr same', ?_, ?_⟩
    · rw [respond_respPort, (ports_of_legalRun run).2]
    · rw [respond_respPort, (ports_of_legalRun run').2]
  | false =>
    obtain ⟨e, refused⟩ := exists_refusedWith legal
    exact ⟨_, _, (Response.error e).words, exec_of_refusedWith refused s, exec_of_refusedWith refused s', same, rfl,
      rfl⟩

/-- Settles O13: the run of a legal command and the refusal of another depend on the block alone. -/
theorem behaviourDependsOnTheBlockAlone : Obligations.BehaviourDependsOnTheBlockAlone := by
  unfold Obligations.BehaviourDependsOnTheBlockAlone
  exact fun i _ _ same => exec_of_sameBlock i same

/-- Settles O12: a refusal leaves the same block, and equal blocks answer the next command alike. -/
theorem errorLeavesNoTraceForTheNextCommand : Obligations.ErrorLeavesNoTraceForTheNextCommand := by
  unfold Obligations.ErrorLeavesNoTraceForTheNextCommand
  intro i j s illegal
  obtain ⟨e, refused⟩ := exists_refusedWith illegal
  have same : SameBlock s (respond (.error e) s) := ⟨rfl, rfl⟩
  obtain ⟨u, v, ws, run, run', answers⟩ := exec_of_sameBlock j same
  exact ⟨_, u, v, ws, exec_of_refusedWith refused s, run, run', answers⟩

end Sys2Proof.Machine
end

section
/-! PROOFS. The response stream (spec/30_encoding.md R61): every step appends whole responses or nothing, and a stream
of whole responses can be read in one way only. -/

namespace Sys2Proof.Machine

theorem responseStream_append_words {ws : List Word} (whole : ResponseStream ws) (r : Response) :
    ResponseStream (ws ++ r.words) := by
  obtain ⟨rs, rfl⟩ := whole
  exact ⟨rs ++ [r], by simp⟩

/-- Settles O16: a reset answers nothing; a command, or a packet with an unknown `OP`, appends one whole response. -/
theorem stepKeepsTheResponseStreamWhole : Obligations.StepKeepsTheResponseStreamWhole := by
  unfold Obligations.StepKeepsTheResponseStreamWhole
  intro s t whole stepped
  obtain ⟨items, -, rfl⟩ | ⟨i, rest, -, executed⟩ | ⟨op, rest, -, rfl⟩ := step_next_cases s t stepped
  · exact whole
  · obtain ⟨u, r, executed', -, resp⟩ := exec_appends_response i (takePacket rest (presentedWords s.cmdPort).2 s)
    obtain rfl := Host.Outcome.next.inj (executed'.symm.trans executed)
    rw [resp]
    exact responseStream_append_words whole r
  · exact responseStream_append_words whole (.error .illegalCommand)

/-- Settles O17: the empty stream is the concatenation of no responses. -/
theorem resetHasAWholeResponseStream : Obligations.ResetHasAWholeResponseStream := by
  unfold Obligations.ResetHasAWholeResponseStream
  exact ⟨[], rfl⟩

/-- R150: the `STATUS` and the data words say which response it is. -/
theorem response_eq_of_status_of_data {r r' : Response} (status : r.status = r'.status) (data : r.data = r'.data) :
    r = r' := by
  rcases r with _ | v | e <;> rcases r' with _ | v' | e' <;> simp only [Response.status, Response.data] at status data
  case ok.ok => rfl
  case okWord.okWord => rw [List.singleton_inj.mp data]
  case error.error => rw [errorCode_injective status]
  case ok.okWord | okWord.ok | okWord.error | error.okWord => simp at data
  case ok.error => exact absurd status.symm (errorCode_ne_zero e')
  case error.ok => exact absurd status (errorCode_ne_zero e)

/-- The header of a response says which status it has and how many data words follow it, so the first response of a
stream is determined by the stream. -/
theorem words_append_injective {r r' : Response} {ws ws' : List Word} (h : r.words ++ ws = r'.words ++ ws') :
    r = r' ∧ ws = ws' := by
  obtain ⟨header, rest⟩ := List.cons.inj h
  have status : r.status = r'.status := by rw [← header_status r, header, header_status r']
  have rlen : r.data.length = r'.data.length := by
    rw [← header_rlen r, header, header_rlen r']
  obtain ⟨data, rest⟩ := List.append_inj rest rlen
  exact ⟨response_eq_of_status_of_data status data, rest⟩

/-- Settles O18: the first response is read off the header, and the rest by induction. -/
theorem responseStreamReadsOneWay : Obligations.ResponseStreamReadsOneWay := by
  unfold Obligations.ResponseStreamReadsOneWay
  intro rs
  induction rs with
  | nil =>
    rintro (_ | ⟨r', rs'⟩) h
    · rfl
    · simp [Response.words] at h
  | cons r rs ih =>
    rintro (_ | ⟨r', rs'⟩) h
    · simp [Response.words] at h
    · obtain ⟨rfl, rest⟩ := words_append_injective (by simpa using h)
      rw [ih rs' rest]

end Sys2Proof.Machine
end

section
/-! PROOFS. Tempering bit by bit (spec/42_temper.md R113, R114; spec/43_untemper.md R127): the bits a step changes are
those the shift and the mask leave. Tempering and its inverse are linear over GF(2), so bit `i` of the result is the
XOR of the input bits whose column (the value at that one-bit word) has bit `i`, and the table of columns gives the
table of bits. -/

namespace Sys2Proof.Machine

/-! ## The bits each step changes -/

theorem readBit_temperStep1 (x : Word) (i : Nat) :
    readBit (temperStep1 x) i = if i ≤ 20 then readBit x i ^^ readBit x (i + 11) else readBit x i := by
  rw [temperStep1, readBit_xor_ushiftRight]
  split
  next => rfl
  next beyond => rw [readBit_of_ge x (i + temperU) (by simp only [temperU]; omega), Bool.xor_false]

theorem readBit_temperStep4 (x : Word) (i : Nat) :
    readBit (temperStep4 x) i = if i ≤ 13 then readBit x i ^^ readBit x (i + 18) else readBit x i := by
  rw [temperStep4, readBit_xor_ushiftRight]
  split
  next => rfl
  next beyond => rw [readBit_of_ge x (i + temperL) (by simp only [temperL]; omega), Bool.xor_false]

/-- A masked left shift changes the bits of `positions`, where those are the bits of the mask the shift reaches. -/
theorem readBit_xor_shiftLeft_and_of_positions (x m : Word) (s i : Nat) (positions : List Nat) (hi : i < 32)
    (reached : ∀ j < 32, (decide (s ≤ j) && readBit m j) = decide (j ∈ positions)) :
    readBit (x ^^^ ((x <<< s) &&& m)) i =
      if i ∈ positions then readBit x i ^^ readBit x (i - s) else readBit x i := by
  rw [readBit_xor_shiftLeft_and x m s i hi, Bool.and_right_comm, reached i hi]
  by_cases member : i ∈ positions <;> simp [member]

theorem readBit_temperStep2 (x : Word) (i : Nat) (hi : i < 32) :
    readBit (temperStep2 x) i =
      if i ∈ [31, 28, 27, 26, 24, 21, 19, 18, 14, 12, 10, 9, 7] then readBit x i ^^ readBit x (i - 7)
      else readBit x i :=
  readBit_xor_shiftLeft_and_of_positions x temperB temperS i _ hi (by decide)

theorem readBit_temperStep3 (x : Word) (i : Nat) (hi : i < 32) :
    readBit (temperStep3 x) i =
      if i ∈ [31, 30, 29, 27, 26, 25, 24, 23, 22, 18, 17] then readBit x i ^^ readBit x (i - 15)
      else readBit x i :=
  readBit_xor_shiftLeft_and_of_positions x temperC temperT i _ hi (by decide)

/-- Settles O20: the bits of the four steps one by one. -/
theorem eachTemperStepChangesOnlyItsBits : Obligations.EachTemperStepChangesOnlyItsBits := by
  unfold Obligations.EachTemperStepChangesOnlyItsBits
  exact fun x i hi => ⟨readBit_temperStep1 x i, readBit_temperStep2 x i hi, readBit_temperStep3 x i hi,
    readBit_temperStep4 x i⟩

/-! ## Linear functions of a word -/

/-- R114, R126: linear over GF(2). -/
def Linear (f : Word → Word) : Prop := ∀ a b, f (a ^^^ b) = f a ^^^ f b

theorem linear_zero {f : Word → Word} (linear : Linear f) : f 0#32 = 0#32 := by
  have doubled := linear 0#32 0#32
  simpa using doubled

/-- The XOR of the values of `f` at the one-bit words of the bits of `x` below `n`. -/
def xorColumns (f : Word → Word) (x : Word) : Nat → Word
  | 0 => 0#32
  | n + 1 => xorColumns f x n ^^^ if x.getLsbD n then f (1#32 <<< n) else 0#32

theorem getLsbD_xorColumns_id (x : Word) (i : Nat) :
    ∀ n ≤ 32, (xorColumns id x n).getLsbD i = (decide (i < n) && x.getLsbD i)
  | 0, _ => by simp [xorColumns]
  | n + 1, hn => by
    have oneBit : (if x.getLsbD n then id (1#32 <<< n) else 0#32).getLsbD i = (decide (n = i) && x.getLsbD n) := by
      have power : (1#32 <<< n).getLsbD i = decide (n = i) := by
        rw [← BitVec.twoPow_eq, BitVec.getLsbD_twoPow, decide_eq_true (Nat.lt_of_succ_le hn), Bool.true_and]
      cases x.getLsbD n <;> simp only [id, power, if_true, Bool.and_true]
      simp
    rw [xorColumns, BitVec.getLsbD_xor, getLsbD_xorColumns_id x i n (by omega), oneBit]
    by_cases here : n = i
    · subst here; simp
    · have order : i < n + 1 ↔ i < n := by omega
      simp [here, order]

/-- A word is the XOR of its bits. -/
theorem xorColumns_id (x : Word) : xorColumns id x 32 = x :=
  BitVec.eq_of_getLsbD_eq fun i hi => by
    rw [getLsbD_xorColumns_id x i 32 (Nat.le_refl 32), decide_eq_true hi, Bool.true_and]

theorem map_xorColumns {f : Word → Word} (linear : Linear f) (x : Word) :
    ∀ n, f (xorColumns id x n) = xorColumns f x n
  | 0 => linear_zero linear
  | n + 1 => by
    rw [xorColumns, xorColumns, linear, map_xorColumns linear x n]
    split
    · rfl
    · rw [linear_zero linear]

/-- Bit `i` is the XOR of the input bits whose column has bit `i`. -/
theorem getLsbD_xorColumns (f : Word → Word) (x : Word) (i : Nat) :
    ∀ n, (xorColumns f x n).getLsbD i =
      xorBits x ((List.range n).filter fun j => (f (1#32 <<< j)).getLsbD i)
  | 0 => by simp [xorColumns, xorBits]
  | n + 1 => by
    rw [xorColumns, BitVec.getLsbD_xor, getLsbD_xorColumns f x i n, List.range_succ, List.filter_append]
    cases column : (f (1#32 <<< n)).getLsbD i <;> cases bit : x.getLsbD n <;> simp [xorBits, column, bit]

theorem getLsbD_of_linear {f : Word → Word} (linear : Linear f) (x : Word) (i : Nat) :
    (f x).getLsbD i = xorBits x ((List.range 32).filter fun j => (f (1#32 <<< j)).getLsbD i) := by
  rw [← getLsbD_xorColumns, ← map_xorColumns linear, xorColumns_id]

/-- The values of a function at the 32 one-bit words. -/
def columnsOf (f : Word → Word) : List Word := (List.range 32).map fun j => f (1#32 <<< j)

theorem apply_of_columnsOf {f : Word → Word} {j : Nat} {w : Word} (listed : (columnsOf f)[j]? = some w) :
    f (1#32 <<< j) = w := by
  obtain ⟨inside, rfl⟩ := List.getElem?_eq_some_iff.mp listed
  simp [columnsOf]

/-- The input bits a table of columns gives each output bit: those whose columns have it. -/
def inputsOfColumns (columns : List Word) : List (List Nat) :=
  (List.range 32).map fun i => (List.range 32).filter fun j => (columns.getD j 0#32).getLsbD i

/-- A linear function is the XOR network its columns give. -/
theorem getLsbD_of_inputs {f : Word → Word} (linear : Linear f) (x : Word) {i : Nat} {bits : List Nat}
    (listed : (inputsOfColumns (columnsOf f))[i]? = some bits) : (f x).getLsbD i = xorBits x bits := by
  obtain ⟨inside, rfl⟩ := List.getElem?_eq_some_iff.mp listed
  have column : ∀ j ∈ List.range 32, (f (1#32 <<< j)).getLsbD i = ((columnsOf f).getD j 0#32).getLsbD i :=
    fun j hj => by simp [columnsOf, List.mem_range.mp hj]
  rw [getLsbD_of_linear linear, List.filter_congr column]
  simp only [inputsOfColumns, List.getElem_map, List.getElem_range]

/-! ## The two tables of tempering -/

theorem linear_xor_ushiftRight (s : Nat) : Linear fun x => x ^^^ (x >>> s) := fun a b => by
  simp only [BitVec.ushiftRight_xor_distrib]
  ac_rfl

theorem xor_and_distrib_right (u v m : Word) : (u ^^^ v) &&& m = (u &&& m) ^^^ (v &&& m) :=
  BitVec.eq_of_getLsbD_eq fun i _ => by simp [Bool.and_xor_distrib_right]

theorem linear_xor_shiftLeft_and (s : Nat) (m : Word) : Linear fun x => x ^^^ ((x <<< s) &&& m) := fun a b => by
  simp only [BitVec.shiftLeft_xor_distrib, xor_and_distrib_right]
  ac_rfl

theorem linear_temperStep1 : Linear temperStep1 := linear_xor_ushiftRight temperU
theorem linear_temperStep2 : Linear temperStep2 := linear_xor_shiftLeft_and temperS temperB
theorem linear_temperStep3 : Linear temperStep3 := linear_xor_shiftLeft_and temperT temperC
theorem linear_temperStep4 : Linear temperStep4 := linear_xor_ushiftRight temperL

theorem linear_temper : Linear temper := fun a b => by
  rw [temper, linear_temperStep1, linear_temperStep2, linear_temperStep3, linear_temperStep4, ← temper, ← temper]

theorem columnsOf_temper : columnsOf temper = temperColumns := by decide +kernel

theorem inputsOfColumns_temperColumns : inputsOfColumns temperColumns = temperInputs := by decide +kernel

/-- Settles O21: tempering is linear with the columns of the second table, and those columns give the first table. -/
theorem temperIsTheXorNetwork : Obligations.TemperIsTheXorNetwork := by
  unfold Obligations.TemperIsTheXorNetwork
  rw [← inputsOfColumns_temperColumns, ← columnsOf_temper]
  exact ⟨temper_cornerCases.1, linear_temper, fun x _ _ => getLsbD_of_inputs linear_temper x,
    fun _ _ => apply_of_columnsOf⟩

/-! ## The two tables of untempering -/

/-- R126: the inverse of a linear function is linear. -/
theorem linear_untemper : Linear untemper := fun a b => by
  apply untemper_eq_of_temper_eq
  rw [linear_temper, temper_untemper, temper_untemper]

/-- Each column of the table tempers to its one-bit word. -/
theorem columnsOf_untemper : columnsOf untemper = untemperColumns := by
  have tempered : untemperColumns.map temper = columnsOf id := by decide +kernel
  have undone := congrArg (List.map untemper) tempered
  have inverse : untemper ∘ temper = id := funext untemper_temper
  rw [List.map_map, inverse, List.map_id, columnsOf, List.map_map] at undone
  exact undone.symm

theorem inputsOfColumns_untemperColumns : inputsOfColumns untemperColumns = untemperInputs := by decide +kernel

/-- Settles O22: the inverse of tempering is linear with the columns of the second table, and those columns give the
first table. -/
theorem untemperIsTheXorNetwork : Obligations.UntemperIsTheXorNetwork := by
  unfold Obligations.UntemperIsTheXorNetwork
  rw [← inputsOfColumns_untemperColumns, ← columnsOf_untemper]
  exact ⟨untemper_cornerCases.1, linear_untemper, fun y _ _ => getLsbD_of_inputs linear_untemper y,
    fun _ _ => apply_of_columnsOf⟩

end Sys2Proof.Machine
end

section
/-! PROOFS. The chunk form and the iterated form of the inverse steps (spec/43_untemper.md R124, R125), both from the
equation the recovered word satisfies; and the worked examples of R110 and R120. -/

namespace Sys2Proof.Machine

/-! ## Chunks: a bit field of the shifted word is the field the shift brings there -/

/-- R124, right shift: the field at `start` is XORed with the one `s` bits above it. -/
theorem extractLsb'_of_xor_ushiftRight {x y : Word} {s : Nat} (solves : x ^^^ (x >>> s) = y) (start len : Nat) :
    x.extractLsb' start len = y.extractLsb' start len ^^^ x.extractLsb' (start + s) len := by
  subst solves
  refine BitVec.eq_of_getLsbD_eq fun i hi => ?_
  have above : start + s + i = s + (start + i) := by omega
  simp only [BitVec.getLsbD_xor, BitVec.getLsbD_extractLsb', BitVec.getLsbD_ushiftRight, above, hi, decide_true,
    Bool.true_and, Bool.xor_assoc, Bool.xor_self, Bool.xor_false]

/-- R124, right shift: the top `s` bits are those of `y`. -/
theorem extractLsb'_top_of_xor_ushiftRight {x y : Word} {s : Nat} (solves : x ^^^ (x >>> s) = y) (start len : Nat)
    (top : 32 ≤ start + s) : x.extractLsb' start len = y.extractLsb' start len := by
  have beyond : x.extractLsb' (start + s) len = 0#len := BitVec.eq_of_getLsbD_eq fun i _ => by
    rw [BitVec.getLsbD_extractLsb', BitVec.getLsbD_of_ge x _ (by omega), Bool.and_false, BitVec.getLsbD_zero]
  rw [extractLsb'_of_xor_ushiftRight solves, beyond, BitVec.xor_zero]

/-- R124, left shift: the field at `start` is XORed with the masked one `s` bits below it. -/
theorem extractLsb'_of_xor_shiftLeft_and {x y m : Word} {s : Nat} (solves : x ^^^ ((x <<< s) &&& m) = y)
    (start len : Nat) (above : s ≤ start) :
    x.extractLsb' start len =
      y.extractLsb' start len ^^^ (x.extractLsb' (start - s) len &&& m.extractLsb' start len) := by
  subst solves
  refine BitVec.eq_of_getLsbD_eq fun i hi => ?_
  have reached : ¬ start + i < s := by omega
  have below : start + i - s = start - s + i := by omega
  simp only [BitVec.getLsbD_xor, BitVec.getLsbD_and, BitVec.getLsbD_extractLsb', BitVec.getLsbD_shiftLeft, reached,
    below, hi, decide_true, decide_false, Bool.true_and, Bool.not_false, Bool.and_true]
  by_cases inside : start + i < 32
  · simp [inside]
  · simp [inside, BitVec.getLsbD_of_ge m _ (Nat.le_of_not_lt inside)]

/-- R124, left shift: the low `s` bits are those of `y`. -/
theorem extractLsb'_low_of_xor_shiftLeft_and {x y m : Word} {s : Nat} (solves : x ^^^ ((x <<< s) &&& m) = y)
    (len : Nat) (low : len ≤ s) : x.extractLsb' 0 len = y.extractLsb' 0 len := by
  subst solves
  refine BitVec.eq_of_getLsbD_eq fun i hi => ?_
  have notReached : 0 + i < s := by omega
  simp only [BitVec.getLsbD_xor, BitVec.getLsbD_and, BitVec.getLsbD_extractLsb', BitVec.getLsbD_shiftLeft, notReached,
    decide_true, Bool.not_true, Bool.and_false, Bool.false_and, Bool.xor_false]

/-- Settles O25: each inverse step satisfies its equation, and each line of the table is one field of it. -/
theorem untemperStepsInChunkForm : Obligations.UntemperStepsInChunkForm := by
  unfold Obligations.UntemperStepsInChunkForm
  intro y
  have right18 := xor_ushiftRight_invRight y 18 (by decide)
  have left15 := xor_shiftLeft_and_invLeft y 0xefc60000#32 15 (by decide)
  have left7 := xor_shiftLeft_and_invLeft y 0x9d2c5680#32 7 (by decide)
  have right11 := xor_ushiftRight_invRight y 11 (by decide)
  refine ⟨⟨?_, ?_⟩, ⟨?_, ?_, ?_⟩, ⟨?_, ?_, ?_, ?_, ?_⟩, ⟨?_, ?_, ?_⟩⟩
  · exact extractLsb'_top_of_xor_ushiftRight right18 14 18 (by decide)
  · exact extractLsb'_of_xor_ushiftRight right18 0 14
  · exact extractLsb'_low_of_xor_shiftLeft_and left15 15 (by decide)
  · exact extractLsb'_of_xor_shiftLeft_and left15 15 15 (by decide)
  · exact extractLsb'_of_xor_shiftLeft_and left15 30 2 (by decide)
  · exact extractLsb'_low_of_xor_shiftLeft_and left7 7 (by decide)
  · exact extractLsb'_of_xor_shiftLeft_and left7 7 7 (by decide)
  · exact extractLsb'_of_xor_shiftLeft_and left7 14 7 (by decide)
  · exact extractLsb'_of_xor_shiftLeft_and left7 21 7 (by decide)
  · exact extractLsb'_of_xor_shiftLeft_and left7 28 4 (by decide)
  · exact extractLsb'_top_of_xor_ushiftRight right11 21 11 (by decide)
  · exact extractLsb'_of_xor_ushiftRight right11 10 11
  · exact extractLsb'_of_xor_ushiftRight right11 0 10

/-! ## Passes: what is still wrong after `n` passes is shifted once more by each -/

theorem xor_xor_xor_cancel (a b c : Word) : (a ^^^ b) ^^^ (b ^^^ c) = a ^^^ c := by
  rw [BitVec.xor_assoc, ← BitVec.xor_assoc b, BitVec.xor_self, BitVec.zero_xor]

/-- R125: after `n` passes the word is wrong by the recovered word shifted `n + 1` times. -/
theorem iterRight_xor_ushiftRight (x : Word) (s : Nat) :
    ∀ n, iterRight (x ^^^ (x >>> s)) s n = x ^^^ (x >>> (s * (n + 1)))
  | 0 => by rw [iterRight, Nat.zero_add, Nat.mul_one]
  | n + 1 => by
    rw [iterRight, iterRight_xor_ushiftRight x s n, BitVec.ushiftRight_xor_distrib, ← BitVec.shiftRight_add,
      xor_xor_xor_cancel, Nat.mul_succ s (n + 1)]

/-- R125: enough passes shift the error out of the word. -/
theorem iterRight_of_enough (y : Word) (s n : Nat) (hs : 0 < s) (enough : 32 ≤ s * (n + 1)) :
    iterRight y s n = invRight y s := by
  have passes := iterRight_xor_ushiftRight (invRight y s) s n
  rwa [xor_ushiftRight_invRight y s hs, BitVec.ushiftRight_eq_zero enough, BitVec.xor_zero] at passes

/-- The bits that can still be wrong after `n` passes of the left iteration. -/
def wrongBits (s : Nat) (m : Word) : Nat → Word
  | 0 => m
  | n + 1 => (wrongBits s m n <<< s) &&& m

/-- R125: after `n` passes the word is wrong by the recovered word shifted `n + 1` times, in the bits of `wrongBits`. -/
theorem iterLeft_xor_shiftLeft_and (x m : Word) (s : Nat) :
    ∀ n, iterLeft (x ^^^ ((x <<< s) &&& m)) s m n = x ^^^ ((x <<< (s * (n + 1))) &&& wrongBits s m n)
  | 0 => by rw [iterLeft, wrongBits, Nat.zero_add, Nat.mul_one]
  | n + 1 => by
    rw [iterLeft, iterLeft_xor_shiftLeft_and x m s n, BitVec.shiftLeft_xor_distrib, xor_and_distrib_right,
      xor_xor_xor_cancel, BitVec.shiftLeft_and_distrib, ← BitVec.shiftLeft_add, BitVec.and_assoc, wrongBits,
      Nat.mul_succ s (n + 1)]

theorem wrongBits_of_zero (s : Nat) (m : Word) {k : Nat} (done : wrongBits s m k = 0#32) :
    ∀ n, k ≤ n → wrongBits s m n = 0#32 := fun n hn => by
  induction n, hn using Nat.le_induction with
  | base => exact done
  | succ n _ ih => rw [wrongBits, ih, BitVec.zero_shiftLeft, BitVec.zero_and]

/-- R125: passes past the one at which no bit can be wrong do no harm. -/
theorem iterLeft_of_enough (y m : Word) (s : Nat) (hs : 0 < s) {k n : Nat} (done : wrongBits s m k = 0#32)
    (hn : k ≤ n) : iterLeft y s m n = invLeft y s m := by
  have passes := iterLeft_xor_shiftLeft_and (invLeft y s m) m s n
  rwa [xor_shiftLeft_and_invLeft y m s hs, wrongBits_of_zero s m done n hn, BitVec.and_zero, BitVec.xor_zero] at passes

/-- Settles O26: each count of passes leaves no bit wrong; with one pass fewer the word `0xffffffff` is not recovered.
-/
theorem untemperStepsInIteratedForm : Obligations.UntemperStepsInIteratedForm := by
  unfold Obligations.UntemperStepsInIteratedForm
  refine ⟨fun y n => ⟨fun hn => ?_, fun hn => ?_, fun hn => ?_, fun hn => ?_⟩, ⟨0xffffffff#32, ?_⟩, ⟨0xffffffff#32, ?_⟩,
    ⟨0xffffffff#32, ?_⟩, ⟨0xffffffff#32, ?_⟩⟩
  · exact iterRight_of_enough y 18 n (by decide) (by omega)
  · exact iterLeft_of_enough y _ 15 (by decide) (by decide) hn
  · exact iterLeft_of_enough y _ 7 (by decide) (by decide) hn
  · exact iterRight_of_enough y 11 n (by decide) (by omega)
  · decide +kernel
  · decide +kernel
  · decide +kernel
  · decide +kernel

/-! ## The worked examples -/

/-- Settles O29: the words of both chains of steps, and the two answers. -/
theorem temperingWorkedExamples : Obligations.TemperingWorkedExamples := by
  unfold Obligations.TemperingWorkedExamples
  have tempered : temper 0x12345678#32 = 0x2b7e4a2d#32 := by decide
  have untempered : untemper 0x8c7f0aac#32 = 0x91a10d12#32 := untemper_eq_of_temper_eq _ _ (by decide)
  refine ⟨by decide, by decide, by decide, by decide, tempered, by decide +kernel, by decide +kernel, by decide +kernel,
    by decide +kernel, untempered, fun s => ⟨?_, ?_⟩⟩
  · rw [exec_temper, execTemper_of_legal, respond, words_okWord, tempered]
  · rw [exec_untemper, execUntemper_of_legal, respond, words_okWord, untempered]

end Sys2Proof.Machine
end

section
/-! PROOFS. The twist (spec/41_twist.md R101 to R105). The array after a twist is the only one that satisfies the
equations of the functional form, each word in terms of words of lower index and of the array before; so an array is
shown to be a twist by showing that it satisfies them. -/

namespace Sys2Proof.Machine

/-! ## The mixing function -/

/-- R101: `y` is bit 31 of `hi` above bits 30..0 of `lo`. -/
theorem readBit_joinBits (hi lo : Word) (i : Nat) (h : i < 32) :
    readBit (joinBits hi lo) i = if i = 31 then readBit hi 31 else readBit lo i := by
  have masks : ∀ j < 32, readBit upperMask j = decide (j = 31) ∧ readBit lowerMask j = decide (j ≠ 31) := by decide
  obtain ⟨upper, lower⟩ := masks i h
  simp only [readBit] at upper lower ⊢
  rw [joinBits, BitVec.getLsbD_or, BitVec.getLsbD_and, BitVec.getLsbD_and, upper, lower]
  by_cases top : i = 31 <;> simp [top]

theorem readBit_mix (hi lo : Word) (i : Nat) :
    readBit (mix hi lo) i =
      (readBit (joinBits hi lo) (i + 1) ^^ (readBit (joinBits hi lo) 0 && readBit twistConstant i)) := by
  rw [mix, readBit, BitVec.getLsbD_xor, BitVec.getLsbD_ushiftRight, Nat.add_comm 1 i]
  cases readBit (joinBits hi lo) 0 <;> simp [readBit]

theorem mix_congr {hi hi' lo lo' : Word} (top : readBit hi 31 = readBit hi' 31)
    (low : ∀ i < 31, readBit lo i = readBit lo' i) : mix hi lo = mix hi' lo' := by
  have joined : joinBits hi lo = joinBits hi' lo' := BitVec.eq_of_getLsbD_eq fun i h => by
    have left := readBit_joinBits hi lo i h
    have right := readBit_joinBits hi' lo' i h
    by_cases isTop : i = 31
    · rw [if_pos isTop] at left right
      exact left.trans (top.trans right.symm)
    · rw [if_neg isTop] at left right
      exact left.trans ((low i (by omega)).trans right.symm)
  rw [mix, mix, joined]

/-- Settles O35: the bits of `mix` from those of the joined word. -/
theorem mixUsesTopBitAndLowBits : Obligations.MixUsesTopBitAndLowBits := by
  unfold Obligations.MixUsesTopBitAndLowBits
  refine ⟨fun hi lo i h => ?_, fun _ _ _ _ => mix_congr, fun _ _ => rfl⟩
  have bit := readBit_mix hi lo i
  rw [readBit_joinBits hi lo 0 (by decide), if_neg (by decide)] at bit
  refine bit.trans (congrArg (· ^^ (readBit lo 0 && readBit twistConstant i)) ?_)
  by_cases last : i = 31
  · rw [if_pos last, last, readBit_of_ge _ 32 (Nat.le_refl 32)]
  · rw [if_neg last, readBit_joinBits hi lo (i + 1) (by omega)]
    by_cases top : i = 30 <;> simp [top, readBit]

theorem joinBits_xor (hi hi' lo lo' : Word) :
    joinBits (hi ^^^ hi') (lo ^^^ lo') = joinBits hi lo ^^^ joinBits hi' lo' := by
  refine BitVec.eq_of_getLsbD_eq fun i h => ?_
  have bit := fun a b => readBit_joinBits a b i h
  simp only [readBit] at bit
  simp only [BitVec.getLsbD_xor, bit]
  split <;> rfl

/-- R103 b: the mixing function is linear in its two operands together. -/
theorem mix_xor (hi hi' lo lo' : Word) : mix (hi ^^^ hi') (lo ^^^ lo') = mix hi lo ^^^ mix hi' lo' := by
  refine BitVec.eq_of_getLsbD_eq fun i h => (readBit_mix _ _ i).trans ?_
  have left := readBit_mix hi lo i
  have right := readBit_mix hi' lo' i
  simp only [readBit, joinBits_xor, BitVec.getLsbD_xor] at left right ⊢
  rw [left, right, Bool.and_xor_distrib_right]
  simp only [Bool.xor_assoc, Bool.xor_left_comm]

/-! ## The functional form -/

/-- R102: `t` satisfies the equations of the functional form over the array `o` before the twist. -/
def IsTwistOf (o t : MT) : Prop := ∀ k : Index,
  readWord t k = readWord (if k.val < 227 then o else t) (indexPlus k 397) ^^^
    mix (readWord o k) (readWord (if k.val < 623 then o else t) (indexPlus k 1))

theorem isTwistOf_twistArray (o : MT) : IsTwistOf o (twistArray o) := readWord_twistArray o

theorem indexPlus_of_lt (k : Index) (d : Nat) (h : k.val + d < 624) : indexPlus k d = ⟨k.val + d, h⟩ :=
  Fin.ext (Nat.mod_eq_of_lt h)

theorem indexPlus_of_ge (k : Index) (d : Nat) (h : 624 ≤ k.val + d) (hd : d ≤ 624) :
    indexPlus k d = ⟨k.val + d - 624, by omega⟩ := by
  have hk := k.isLt
  exact Fin.ext (by simp only [indexPlus]; omega)

/-- The equations determine the array, word by word. -/
theorem eq_of_isTwistOf {o t t' : MT} (twisted : IsTwistOf o t) (twisted' : IsTwistOf o t') : t = t' := by
  have words : ∀ (n : Nat) (h : n < 624), readWord t ⟨n, h⟩ = readWord t' ⟨n, h⟩ := by
    intro n
    induction n using Nat.strongRecOn with
    | ind n ih =>
      intro h
      have ahead : readWord (if n < 227 then o else t) (indexPlus ⟨n, h⟩ 397) =
          readWord (if n < 227 then o else t') (indexPlus ⟨n, h⟩ 397) := by
        split
        next => rfl
        next reached =>
          rw [indexPlus_of_ge ⟨n, h⟩ 397 (by simp only; omega) (by decide)]
          exact ih _ (by simp only; omega) _
      have neighbour : readWord (if n < 623 then o else t) (indexPlus ⟨n, h⟩ 1) =
          readWord (if n < 623 then o else t') (indexPlus ⟨n, h⟩ 1) := by
        split
        next => rfl
        next reached =>
          rw [indexPlus_of_ge ⟨n, h⟩ 1 (by simp only; omega) (by decide)]
          exact ih _ (by simp only; omega) _
      rw [twisted, twisted', ahead, neighbour]
  exact readWord_ext t t' fun k => words k.val k.isLt

theorem twistArray_eq_of_isTwistOf {o t : MT} (twisted : IsTwistOf o t) : twistArray o = t :=
  eq_of_isTwistOf (isTwistOf_twistArray o) twisted

/-- Settles O36: the equations over the three ranges of indices. -/
theorem twistIsTheFunctionalForm : Obligations.TwistIsTheFunctionalForm := by
  unfold Obligations.TwistIsTheFunctionalForm
  intro s
  have form := readWord_twistArray s.mt
  refine ⟨_, exec_twist_legal s, fun k h => ?_, fun k h1 h2 => ?_, ?_, rfl, rfl, by simp⟩
  · rw [respond_mt, twist_mt, form, if_pos (by simp only; omega), if_pos (by simp only; omega),
      indexPlus_of_lt _ 397 (by simp only; omega), indexPlus_of_lt _ 1 (by simp only; omega)]
  · have ahead : indexPlus ⟨k, by omega⟩ 397 = ⟨k - 227, by omega⟩ := by
      rw [indexPlus_of_ge _ 397 (by simp only; omega) (by decide)]
      exact Fin.ext (by simp only; omega)
    rw [respond_mt, twist_mt, form, if_neg (by simp only; omega), if_pos (by simp only; omega), ahead,
      indexPlus_of_lt _ 1 (by simp only; omega)]
  · exact form 623

/-! ## Laws of the twist -/

@[simp] theorem readWord_xorArray (a b : MT) (k : Index) :
    readWord (xorArray a b) k = readWord a k ^^^ readWord b k := by
  simp [readWord, xorArray]

@[simp] theorem readWord_zeroArray (k : Index) : readWord zeroArray k = 0#32 := by
  simp [readWord, zeroArray]

/-- R103 b: the equations are linear. -/
theorem isTwistOf_xorArray {a b ta tb : MT} (ha : IsTwistOf a ta) (hb : IsTwistOf b tb) :
    IsTwistOf (xorArray a b) (xorArray ta tb) := fun k => by
  rw [← apply_ite₂ xorArray, ← apply_ite₂ xorArray]
  simp only [readWord_xorArray, ha k, hb k, mix_xor]
  ac_rfl

theorem isTwistOf_zeroArray : IsTwistOf zeroArray zeroArray := fun k => by
  simp only [ite_self, readWord_zeroArray]
  decide

theorem twistArray_zeroArray : twistArray zeroArray = zeroArray := twistArray_eq_of_isTwistOf isTwistOf_zeroArray

/-- R103 c: word 0 is read as a neighbour only after it is rewritten, and as `hi` only in bit 31. -/
theorem isTwistOf_of_agree {a b t : MT} (top : readBit (readWord a 0) 31 = readBit (readWord b 0) 31)
    (rest : ∀ k : Index, k ≠ 0 → readWord a k = readWord b k) (twisted : IsTwistOf a t) : IsTwistOf b t := fun k => by
  have ahead : readWord (if k.val < 227 then a else t) (indexPlus k 397) =
      readWord (if k.val < 227 then b else t) (indexPlus k 397) := by
    split
    next => exact rest _ (by rw [indexPlus_of_lt k 397 (by omega), Ne, Fin.ext_iff]; simp)
    next => rfl
  have neighbour : readWord (if k.val < 623 then a else t) (indexPlus k 1) =
      readWord (if k.val < 623 then b else t) (indexPlus k 1) := by
    split
    next => exact rest _ (by rw [indexPlus_of_lt k 1 (by omega), Ne, Fin.ext_iff]; simp)
    next => rfl
  have own : readBit (readWord a k) 31 = readBit (readWord b k) 31 := by
    by_cases zero : k = 0
    · rw [zero, top]
    · rw [rest k zero]
  rw [twisted k, ahead, neighbour, mix_congr own fun _ _ => rfl]

/-- Settles O39: the equations are linear, hold of the zero array, and do not see bits 30..0 of word 0. -/
theorem twistIsLinearAndIgnoresLowBitsOfWordZero : Obligations.TwistIsLinearAndIgnoresLowBitsOfWordZero := by
  unfold Obligations.TwistIsLinearAndIgnoresLowBitsOfWordZero
  refine ⟨fun a b => ?_, twistArray_zeroArray, fun a b top rest => ?_⟩
  · exact twistArray_eq_of_isTwistOf (isTwistOf_xorArray (isTwistOf_twistArray a) (isTwistOf_twistArray b))
  · exact (twistArray_eq_of_isTwistOf (isTwistOf_of_agree top rest (isTwistOf_twistArray a))).symm

/-- The words R104 lists of the twist of the array that is zero but for word 1. -/
def workedTwistWord (k : Nat) : Word :=
  if k = 0 ∨ k = 227 ∨ k = 454 then 0x9908b0df#32 else if k = 623 then 0x958ce8b0#32 else 0#32

theorem twistList_worked :
    twistList (writeWord zeroArray 1 1#32).toList = (List.range 624).map workedTwistWord := by
  decide +kernel

/-- Settles O38: the whole twisted array, word by word. -/
theorem twistWorkedExample : Obligations.TwistWorkedExample := by
  unfold Obligations.TwistWorkedExample
  intro s worked
  refine ⟨_, exec_twist_legal s, rfl, fun k => ?_⟩
  rw [respond_mt, twist_mt, worked]
  apply readWord_twistArray_eval
  rw [twistList_worked, List.getElem?_map, List.getElem?_range k.isLt]
  rfl

/-! ## Windows of a sequence -/

@[simp] theorem readWord_window (x : Nat → Word) (w : Nat) (k : Index) : readWord (window x w) k = x (w + k.val) := by
  simp [readWord, window]

/-- The word `d` places after index `k` of a window, where what lies past its end is in the window 624 later. -/
theorem readWord_window_indexPlus (x : Nat → Word) (w : Nat) (k : Index) (d : Nat) (hd : d ≤ 624) {c : Prop}
    [Decidable c] (inside : c ↔ k.val + d < 624) :
    readWord (if c then window x w else window x (w + 624)) (indexPlus k d) = x (w + k.val + d) := by
  split
  next h =>
    rw [indexPlus_of_lt k d (inside.mp h), readWord_window]
    exact congrArg x (by simp only; omega)
  next h =>
    have past : 624 ≤ k.val + d := Nat.le_of_not_lt (mt inside.mpr h)
    rw [indexPlus_of_ge k d past hd, readWord_window]
    exact congrArg x (by simp only; omega)

/-- R105: the equations over a window, aligned or not, are the recurrence at its 624 positions. -/
theorem isTwistOf_window_iff (x : Nat → Word) (w : Nat) :
    IsTwistOf (window x w) (window x (w + 624)) ↔
      ∀ k : Index, x (w + k.val + 624) = x (w + k.val + 397) ^^^ mix (x (w + k.val)) (x (w + k.val + 1)) := by
  refine forall_congr' fun k => ?_
  rw [readWord_window_indexPlus x w k 397 (by decide) (by omega),
    readWord_window_indexPlus x w k 1 (by decide) (by omega), readWord_window, readWord_window, Nat.add_right_comm]

theorem twistArray_window {x : Nat → Word} (sequence : TwistSequence x) (w : Nat) :
    twistArray (window x w) = window x (w + 624) :=
  twistArray_eq_of_isTwistOf ((isTwistOf_window_iff x w).mpr fun k => sequence (w + k.val))

theorem generation_window {x : Nat → Word} (sequence : TwistSequence x) :
    ∀ j, generation (window x 0) j = window x (624 * j)
  | 0 => rfl
  | j + 1 => by rw [generation, generation_window sequence j, twistArray_window sequence, Nat.mul_succ]

/-- R105: the words of successive generations of an array, one after the other. -/
def generationWords (mt : MT) (n : Nat) : Word :=
  readWord (generation mt (n / 624)) ⟨n % 624, Nat.mod_lt n (by decide)⟩

theorem window_generationWords (mt : MT) (j : Nat) : window (generationWords mt) (624 * j) = generation mt j :=
  readWord_ext _ _ fun k => by
    have quotient : (624 * j + k.val) / 624 = j := by omega
    have remainder : (624 * j + k.val) % 624 = k.val := by omega
    simp only [readWord_window, generationWords, quotient, remainder]

/-- R105: position `n` lies in the window of generation `n / 624`, whose twist is the next. -/
theorem twistSequence_generationWords (mt : MT) : TwistSequence (generationWords mt) := fun n => by
  have twisted := isTwistOf_twistArray (generation mt (n / 624))
  rw [← generation, ← window_generationWords, ← window_generationWords, Nat.mul_succ, isTwistOf_window_iff] at twisted
  have position := twisted ⟨n % 624, Nat.mod_lt n (by decide)⟩
  rwa [Nat.div_add_mod n 624] at position

/-- Settles O40: the words of successive generations are such a sequence, and each window's twist is the next window. -/
theorem twistOfAnyWindowIsTheNextWindow : Obligations.TwistOfAnyWindowIsTheNextWindow := by
  unfold Obligations.TwistOfAnyWindowIsTheNextWindow
  exact ⟨fun mt => ⟨generationWords mt, twistSequence_generationWords mt, window_generationWords mt 0⟩,
    fun _ sequence => twistArray_window sequence, fun _ sequence => generation_window sequence⟩

end Sys2Proof.Machine
end

section
/-! PROOFS. RECONSTRUCT (spec/44_reconstruct.md R130, R131), and what SEED, RECONSTRUCT and reset keep of the state
before them: nothing (spec/10_state.md R26, spec/40_seed.md R93, spec/70_reset_and_hazards.md R181). -/

namespace Sys2Proof.Machine

/-! ## RECONSTRUCT -/

theorem encode_reconstruct_624 (p : List Word) (len : p.length = 624) :
    encode (.reconstruct 0#8 p) = 0x03000270#32 :: p := by
  have header : makeHeader 0x03#8 0#8 624 = 0x03000270#32 := by decide
  exact (congrArg (makeHeader 0x03#8 0#8 · :: p) len).trans (congrArg (· :: p) header)

/-- The state a legal RECONSTRUCT leaves. -/
theorem exec_reconstruct_legal (p : List Word) (len : p.length = 624) (s : State) :
    ∃ mt : MT, exec (.reconstruct 0#8 p) s = .next (respond .ok (loadArray mt s)) ∧
      ∀ (i : Nat) (hi : i < 624), readWord mt ⟨i, hi⟩ = untemper (p[i]'(by omega)) := by
  obtain ⟨o, operand⟩ := exists_observedOperand len
  refine ⟨_, execReconstruct_of_operand p o s operand, fun i hi => ?_⟩
  obtain ⟨-, words⟩ := observedOperand_eq_some p o operand
  have word : p[i]? = some (readWord o ⟨i, hi⟩) := words ⟨i, hi⟩
  rw [readWord_reconstructArray, (List.getElem_eq_iff _).mpr word]

/-- Settles O47: the loaded array by the operand's words, the errors by the order of the checks. -/
theorem reconstructLoadsTheUntemperedOutputs : Obligations.ReconstructLoadsTheUntemperedOutputs := by
  unfold Obligations.ReconstructLoadsTheUntemperedOutputs
  refine ⟨fun s p len => ?_, fun s arg p => ⟨fun wrongArg => ?_, fun ⟨zeroArg, wrongLength⟩ => ?_⟩,
    encode_reconstruct_624⟩
  · obtain ⟨mt, executed, words⟩ := exec_reconstruct_legal p len s
    exact ⟨_, executed, words, rfl, rfl, by simp⟩
  · rw [exec_of_refusedWith (.reconstructArg wrongArg), respond, words_illegalCommand]
  · rw [exec_of_refusedWith (.reconstructLength zeroArg wrongLength), respond, words_invalidReconstructionInput]

/-! ## Nothing of the previous state survives -/

/-- The state a SEED of one word leaves: seeding may as well start from the zero array. -/
theorem exec_seed_word (v : Word) (s : State) :
    exec (.seed 0#8 [v]) s = .next (respond .ok (loadArray (seedArray v zeroArray) s)) := by
  rw [seedArray_eq_seedArray v zeroArray s.mt]
  exact execSeed_of_operand [v] v s rfl

/-- R92: the state a SEED without a payload leaves. -/
theorem exec_seed_default (s : State) :
    exec (.seed 0#8 []) s = .next (respond .ok (loadArray (seedArray 0#32 zeroArray) s)) := by
  rw [seedArray_eq_seedArray 0#32 zeroArray s.mt]
  exact execSeed_of_operand [] 0#32 s rfl

theorem sameBlock_loadArray (r r' : Response) (mt : MT) (s s' : State) :
    SameBlock (respond r (loadArray mt s)) (respond r' (loadArray mt s')) := ⟨rfl, rfl⟩

/-- Settles O31: the array each of the commands loads does not depend on the array before. -/
theorem seedAndReconstructDiscardTheOldState : Obligations.SeedAndReconstructDiscardTheOldState := by
  unfold Obligations.SeedAndReconstructDiscardTheOldState
  refine ⟨fun s s' v => ?_, fun s s' => ?_, fun s s' p len => ?_⟩
  · exact ⟨_, _, exec_seed_word v s, exec_seed_word v s', sameBlock_loadArray _ _ _ s s'⟩
  · exact ⟨_, _, exec_seed_default s, exec_seed_word 0#32 s', sameBlock_loadArray _ _ _ s s'⟩
  · obtain ⟨o, operand⟩ := exists_observedOperand len
    refine ⟨_, _, execReconstruct_of_operand p o s operand, execReconstruct_of_operand p o s' operand, ?_⟩
    rw [reconstructArray_eq_reconstructArray o s.mt s'.mt]
    exact sameBlock_loadArray _ _ _ s s'

/-- R93 b: a zero seed gives 1 in word 1. -/
theorem seedArray_words_not_both_zero (v : Word) (mt : MT) :
    ¬ (readWord (seedArray v mt) 0 = 0 ∧ readWord (seedArray v mt) 1 = 0) := by
  rintro ⟨zero, one⟩
  rw [readWord_seedArray_zero] at zero
  rw [readWord_seedArray, zero] at one
  exact absurd one (by decide)

/-- Settles O32: a legal SEED leaves a seeded array, and the zero array has words 0 and 1 both zero. -/
theorem seedingNeverGivesTheZeroArray : Obligations.SeedingNeverGivesTheZeroArray := by
  unfold Obligations.SeedingNeverGivesTheZeroArray
  intro s p short
  obtain ⟨v, operand⟩ := exists_seedOperand short
  have notBoth := seedArray_words_not_both_zero v s.mt
  refine ⟨_, execSeed_of_operand p v s operand, notBoth, fun isZero => notBoth ?_⟩
  rw [respond_mt, loadArray_mt] at isZero
  rw [isZero]
  exact ⟨readWord_zeroArray 0, readWord_zeroArray 1⟩

/-! ## The first generation after a seed, evaluated -/

/-- The tempered words of the generation the next twist makes. -/
def generationOutputs (mt : MT) : List Word := (twistArray mt).toList.map temper

theorem generationOutputs_seedArray (v : Word) (mt : MT) :
    generationOutputs (seedArray v mt) = (twistList (seedList v)).map temper := by
  rw [generationOutputs, twistArray_toList, seedArray_toList]

/-- The first three outputs after SEED 0, as R140 lists them. -/
theorem take_outputs_seedZero :
    ((twistList (seedList 0#32)).map temper).take 3 = [0x8c7f0aac#32, 0x97c4aa2f#32, 0xb716a675#32] := by
  decide +kernel

theorem getElem?_generationOutputs (mt : MT) (k : Index) :
    (generationOutputs mt)[k.val]? = some (temper (readWord (twistArray mt) k)) := by
  rw [generationOutputs, List.getElem?_map, getElem?_toList _ _ k.isLt]
  rfl

theorem firstOutput_seedZero (mt : MT) : temper (readWord (twistArray (seedArray 0#32 mt)) 0) = 0x8c7f0aac#32 := by
  have first := getElem?_generationOutputs (seedArray 0#32 mt) 0
  rw [generationOutputs_seedArray, ← List.getElem?_take_of_lt (show (0 : Index).val < 3 by decide),
    take_outputs_seedZero] at first
  exact (Option.some.inj first).symm

/-! ## The reset event -/

/-- R181: a reset replaces the block by the reset block, whatever it held. -/
theorem resetBlock_eq (s : State) :
    resetBlock s = { mt := State.reset.mt, idx := State.reset.idx, cmdPort := s.cmdPort, respPort := s.respPort } := by
  rw [resetBlock, loadArray, seedArray_eq_seedArray defaultSeed s.mt (Vector.replicate 624 0#32)]
  rfl

theorem step_of_reset_eq (s : State) (items : List PortItem) (port : s.cmdPort = .reset :: items) :
    step s =
      .next { mt := State.reset.mt, idx := State.reset.idx, cmdPort := items, respPort := s.respPort } := by
  rw [step_of_reset s items port, resetBlock_eq]

/-- Settles O34: a reset leaves the reset block, whose next output is the first after SEED 0. -/
theorem resetEventRestoresTheResetState : Obligations.ResetEventRestoresTheResetState := by
  unfold Obligations.ResetEventRestoresTheResetState
  refine ⟨step_of_reset_eq, fun s items port => ?_⟩
  have next := step_of_command
    { mt := State.reset.mt, idx := State.reset.idx, cmdPort := .word 0x02200000#32 :: items, respPort := s.respPort }
    next32 items (by decide) rfl
  rw [exec_next32] at next
  refine ⟨_, _, step_of_reset_eq s _ port, next, rfl, ?_⟩
  rw [respond_respPort, words_okWord, selectedWord_of_readyArray_eq _ _ _ (readyArray_of_exhausted _ rfl)]
  exact congrArg (s.respPort ++ [0x00000001#32, ·]) (firstOutput_seedZero _)

end Sys2Proof.Machine
end

section
/-! PROOFS. Runs of NEXT (spec/45_output.md R142, R143; spec/44_reconstruct.md R132, R133). The words behind
successive generations are one sequence (R105); a block whose array is a window of it answers the tempered terms from
its cursor on, and its array moves on by whole windows. A reconstructed block has the window that begins at the first
captured term. -/

namespace Sys2Proof.Machine

/-! ## Lists of commands -/

theorem execAll_cons_of_next {i : Instr} {s t : State} (is : List Instr) (run : exec i s = .next t) :
    execAll (i :: is) s = execAll is t := by
  simp only [execAll, run]

theorem execAll_append_of_next {is : List Instr} {s t : State} (js : List Instr) (run : execAll is s = .next t) :
    execAll (is ++ js) s = execAll js t := by
  induction is generalizing s with
  | nil => rw [List.nil_append, Host.Outcome.next.inj run]
  | cons i is ih =>
    obtain ⟨u, first⟩ := exec_eq_next i s
    rw [execAll_cons_of_next is first] at run
    rw [List.cons_append, execAll_cons_of_next _ first, ih run]

/-- R186: equal blocks give a list of commands the same responses and are left equal. -/
theorem execAll_of_sameBlock (is : List Instr) {s s' : State} (same : SameBlock s s') :
    ∃ (t t' : State) (ws : List Word), execAll is s = .next t ∧ execAll is s' = .next t' ∧ SameBlock t t' ∧
      t.respPort = s.respPort ++ ws ∧ t'.respPort = s'.respPort ++ ws := by
  induction is generalizing s s' with
  | nil => exact ⟨s, s', [], rfl, rfl, same, by simp, by simp⟩
  | cons i is ih =>
    obtain ⟨u, u', vs, first, first', sameNext, resp, resp'⟩ := exec_of_sameBlock i same
    obtain ⟨t, t', ws, run, run', sameLast, respLast, respLast'⟩ := ih sameNext
    refine ⟨t, t', vs ++ ws, ?_, ?_, sameLast, ?_, ?_⟩
    · rw [execAll_cons_of_next is first, run]
    · rw [execAll_cons_of_next is first', run']
    · rw [respLast, resp, List.append_assoc]
    · rw [respLast', resp', List.append_assoc]

/-- Settles O45: SEED leaves equal blocks, whatever they held, and equal blocks answer alike. -/
theorem equalSeedsGiveEqualOutputs : Obligations.EqualSeedsGiveEqualOutputs := by
  unfold Obligations.EqualSeedsGiveEqualOutputs
  intro a b v n
  obtain ⟨a', b', ws, run, run', same, resp, resp'⟩ := execAll_of_sameBlock (List.replicate n next32)
    (sameBlock_loadArray .ok .ok (seedArray v zeroArray) a b)
  refine ⟨a', b', Response.ok.words ++ ws, ?_, ?_, same, ?_, ?_⟩
  · rw [execAll_cons_of_next _ (exec_seed_word v a), run]
  · rw [execAll_cons_of_next _ (exec_seed_word v b), run']
  · rw [resp, respond_respPort, loadArray_respPort, List.append_assoc]
  · rw [resp', respond_respPort, loadArray_respPort, List.append_assoc]

/-! ## NEXT on a window of a sequence -/

/-- R142: the `n` outputs that begin at position `p` of the sequence. -/
def outputsFrom (x : Nat → Word) (p n : Nat) : List Word := (List.range n).map fun m => temper (x (p + m))

theorem length_outputsFrom (x : Nat → Word) (p n : Nat) : (outputsFrom x p n).length = n := by
  simp [outputsFrom]

theorem outputsFrom_succ (x : Nat → Word) (p n : Nat) :
    outputsFrom x p (n + 1) = outputsFrom x p n ++ [temper (x (p + n))] := by
  simp [outputsFrom, List.range_succ]

theorem outputResponses_append_singleton (ws : List Word) (w : Word) :
    outputResponses (ws ++ [w]) = outputResponses ws ++ (Response.okWord w).words := by
  simp [outputResponses]

/-- R142: `t` is `s` after `n` NEXTs, where the array of `s` is the window of the sequence at `w`: the answers are the
tempered terms from the cursor on, and array and cursor point at the term after them. -/
structure OutputRun (x : Nat → Word) (w n : Nat) (s t : State) : Prop where
  run : execAll (List.replicate n next32) s = .next t
  port : t.cmdPort = s.cmdPort
  answers : t.respPort = s.respPort ++ outputResponses (outputsFrom x (w + s.idx.val) n)
  block : ∃ g, t.mt = window x (w + 624 * g) ∧ 624 * g + t.idx.val = s.idx.val + n
  advanced : 1 ≤ n → 1 ≤ t.idx.val

/-- R140: the array and index an output is selected from, after the twist at 624, point at the term at the cursor. -/
theorem readyArray_of_window {x : Nat → Word} (sequence : TwistSequence x) {w : Nat} {s : State}
    (array : s.mt = window x w) :
    ∃ g, (readyArray s).1 = window x (w + 624 * g) ∧ 624 * g + (readyArray s).2.val = s.idx.val := by
  by_cases below : s.idx.val < 624
  · rw [readyArray_of_lt s below]
    exact ⟨0, array, Nat.zero_add s.idx.val⟩
  · have exhausted : s.idx.val = 624 := by omega
    rw [readyArray_of_exhausted s exhausted]
    exact ⟨1, by rw [array, twistArray_window sequence], exhausted.symm⟩

theorem exists_outputRun {x : Nat → Word} (sequence : TwistSequence x) {w : Nat} {s : State}
    (array : s.mt = window x w) (n : Nat) : ∃ t, OutputRun x w n s t := by
  induction n with
  | zero => exact ⟨s, rfl, rfl, by simp [outputsFrom, outputResponses], ⟨0, array, by omega⟩, by omega⟩
  | succ n ih =>
    obtain ⟨t, done⟩ := ih
    obtain ⟨g, arrayThen, position⟩ := done.block
    obtain ⟨g', ready, index⟩ := readyArray_of_window sequence arrayThen
    have selected : selectedWord t = x (w + s.idx.val + n) := by
      rw [selectedWord, ready, readWord_window]
      exact congrArg x (by omega)
    refine ⟨respond (.okWord (temper (selectedWord t))) (advance t), ?_, done.port, ?_, ⟨g + g', ?_, ?_⟩, fun _ => ?_⟩
    · rw [List.replicate_succ', execAll_append_of_next _ done.run, execAll_cons_of_next _ (exec_next32 t), execAll]
    · rw [respond_respPort, advance_respPort, done.answers, selected, outputsFrom_succ,
        outputResponses_append_singleton, List.append_assoc]
    · rw [respond_mt, advance_mt, ready, Nat.mul_add, Nat.add_assoc]
    · rw [respond_idx, advance_idx, Fin.val_succ]
      omega
    · rw [respond_idx, advance_idx, Fin.val_succ]
      omega

/-- R142: every array begins a sequence. -/
theorem exists_window (mt : MT) : ∃ x, TwistSequence x ∧ mt = window x 0 :=
  ⟨generationWords mt, twistSequence_generationWords mt, (window_generationWords mt 0).symm⟩

/-- Settles O44: a run on the words of the array's generations, whose term `624 + m` is word `m mod 624` of generation
`m / 624 + 1`. -/
theorem outputsAreTheTemperedGenerationsInOrder : Obligations.OutputsAreTheTemperedGenerationsInOrder := by
  unfold Obligations.OutputsAreTheTemperedGenerationsInOrder
  intro s n exhausted
  obtain ⟨t, done⟩ := exists_outputRun (twistSequence_generationWords s.mt) (window_generationWords s.mt 0).symm n
  obtain ⟨g, array, position⟩ := done.block
  refine ⟨t, done.run, done.port, ?_, fun nonempty => ?_⟩
  · have term : ∀ m, generationWords s.mt (624 * 0 + s.idx.val + m) =
        readWord (generation s.mt (m / 624 + 1)) ⟨m % 624, Nat.mod_lt _ (by decide)⟩ := fun m => by
      have quotient : (624 * 0 + s.idx.val + m) / 624 = m / 624 + 1 := by omega
      have remainder : (624 * 0 + s.idx.val + m) % 624 = m % 624 := by omega
      simp only [generationWords, quotient, remainder]
    rw [done.answers, outputsFrom]
    simp only [term]
  · have advanced := done.advanced nonempty
    have cursor := t.idx.isLt
    have generationNow : g = (n - 1) / 624 + 1 := by omega
    refine ⟨?_, by omega⟩
    rw [array, Nat.mul_zero, Nat.zero_add, window_generationWords, generationNow]

/-! ## The zero array -/

theorem twistSequence_zero : TwistSequence fun _ => 0#32 := fun _ =>
  (by decide : 0#32 = 0#32 ^^^ mix 0#32 0#32)

theorem window_zero (w : Nat) : window (fun _ => 0#32) w = zeroArray :=
  readWord_ext _ _ fun k => by rw [readWord_window, readWord_zeroArray]

theorem outputsFrom_zero (p n : Nat) : outputsFrom (fun _ => 0#32) p n = List.replicate n 0#32 := by
  have zero : temper 0#32 = 0#32 := temper_cornerCases.1
  simp [outputsFrom, zero]

/-- Settles O46: zero words untemper to the zero array, which is every window of the zero sequence. -/
theorem zeroArrayOutputsZeroForEver : Obligations.ZeroArrayOutputsZeroForEver := by
  unfold Obligations.ZeroArrayOutputsZeroForEver
  intro s n
  obtain ⟨mt, executed, words⟩ := exec_reconstruct_legal (List.replicate 624 0#32) List.length_replicate s
  have zero : mt = zeroArray := readWord_ext _ _ fun k => by
    rw [words k.val k.isLt, List.getElem_replicate, readWord_zeroArray]
    exact untemper_cornerCases.1
  obtain ⟨u, done⟩ := exists_outputRun twistSequence_zero (zero.trans (window_zero 0).symm) n
    (s := respond .ok (loadArray mt s))
  obtain ⟨g, array, -⟩ := done.block
  exact ⟨_, u, executed, zero, done.run, array.trans (window_zero _), by rw [done.answers, outputsFrom_zero]⟩

/-! ## Cloning -/

/-- R130: the tempered words of an array, reconstructed, are the array. -/
theorem exec_cloneLoad (mt : MT) (s : State) :
    exec (cloneLoad (mt.toList.map temper)) s = .next (respond .ok (loadArray mt s)) := by
  obtain ⟨mt', executed, words⟩ := exec_reconstruct_legal (mt.toList.map temper) (by simp) s
  have same : mt' = mt := readWord_ext _ _ fun k => by
    rw [words k.val k.isLt, List.getElem_map, untemper_temper]
    simp [readWord]
  rw [cloneLoad, executed, same]

theorem outputsFrom_eq_map_window (x : Nat → Word) (p : Nat) :
    outputsFrom x p 624 = (window x p).toList.map temper := by
  refine List.ext_getElem (by simp [outputsFrom]) fun i h _ => ?_
  simp [outputsFrom, window]

/-- R133: RECONSTRUCT of 624 consecutive outputs loads the window that begins at the first, the cursor past its end. -/
theorem exec_cloneLoad_outputsFrom (x : Nat → Word) (p : Nat) (s : State) :
    exec (cloneLoad (outputsFrom x p 624)) s = .next (respond .ok (loadArray (window x p) s)) := by
  rw [outputsFrom_eq_map_window, exec_cloneLoad]

/-- Settles O48: an aligned source ends at the end of the very window its outputs came from. -/
theorem alignedCaptureClonesTheState : Obligations.AlignedCaptureClonesTheState := by
  unfold Obligations.AlignedCaptureClonesTheState
  intro a b aligned
  obtain ⟨x, sequence, array⟩ := exists_window a.mt
  obtain ⟨a', done⟩ := exists_outputRun sequence array 624
  obtain ⟨g, array', position⟩ := done.block
  have advanced := done.advanced (by decide)
  have cursor := a'.idx.isLt
  have same : SameBlock a' (respond .ok (loadArray (window x (0 + a.idx.val)) b)) := by
    refine ⟨array'.trans (congrArg (window x) ?_), Fin.ext ?_⟩
    · omega
    · rw [respond_idx, loadArray_idx]
      show a'.idx.val = 624
      omega
  exact ⟨a', _, outputsFrom x (0 + a.idx.val) 624, length_outputsFrom _ _ _, done.run, done.answers,
    exec_cloneLoad_outputsFrom x _ b, same, fun n => execAll_of_sameBlock _ same⟩

/-- Settles O49: after the capture both blocks are at the same position of the same sequence. -/
theorem anyCaptureClonesTheOutputStream : Obligations.AnyCaptureClonesTheOutputStream := by
  unfold Obligations.AnyCaptureClonesTheOutputStream
  intro a b
  obtain ⟨x, sequence, array⟩ := exists_window a.mt
  obtain ⟨a', done⟩ := exists_outputRun sequence array 624
  obtain ⟨g, array', position⟩ := done.block
  refine ⟨a', _, outputsFrom x (0 + a.idx.val) 624, length_outputsFrom _ _ _, done.run, done.answers,
    exec_cloneLoad_outputsFrom x _ b, fun n => ?_⟩
  obtain ⟨a'', more⟩ := exists_outputRun sequence array' n
  obtain ⟨b'', clone⟩ := exists_outputRun sequence (w := 0 + a.idx.val) rfl n
    (s := respond .ok (loadArray (window x (0 + a.idx.val)) b))
  have here : 0 + 624 * g + a'.idx.val = 0 + a.idx.val + 624 := by omega
  refine ⟨a'', b'', outputsFrom x (0 + a.idx.val + 624) n, length_outputsFrom _ _ _, more.run, clone.run, ?_,
    clone.answers⟩
  rw [more.answers, here]

end Sys2Proof.Machine
end

section
/-! PROOFS. The worked examples of runs after a seed (spec/45_output.md R140, spec/44_reconstruct.md R130), from the
first generation evaluated as a list. -/

namespace Sys2Proof.Machine

theorem take_outputsFrom (x : Nat → Word) (p : Nat) {n N : Nat} (h : n ≤ N) :
    (outputsFrom x p N).take n = outputsFrom x p n := by
  simp [outputsFrom, List.take_range, Nat.min_eq_left h, ← List.map_take]

/-- R142: the first 624 outputs of an exhausted block are those of the next generation. -/
theorem outputsFrom_generationWords (mt : MT) {n : Nat} (h : n ≤ 624) :
    outputsFrom (generationWords mt) 624 n = (generationOutputs mt).take n := by
  have next : window (generationWords mt) 624 = twistArray mt := window_generationWords mt 1
  rw [← take_outputsFrom _ _ h, outputsFrom_eq_map_window, next, generationOutputs]

/-- SEED and the first `n` NEXTs after it: the responses, and the cursor. -/
theorem execAll_seed_next (v : Word) (s : State) {n : Nat} (nonempty : 1 ≤ n) (first : n ≤ 624) :
    ∃ t : State, execAll (.seed 0#8 [v] :: List.replicate n next32) s = .next t ∧ t.idx.val = n ∧
      t.respPort = s.respPort ++ 0x00000000#32 :: outputResponses (((twistList (seedList v)).map temper).take n) := by
  have seeded := exec_seed_word v s
  obtain ⟨t, done⟩ := exists_outputRun (twistSequence_generationWords (seedArray v zeroArray))
    (window_generationWords (seedArray v zeroArray) 0).symm n
    (s := respond .ok (loadArray (seedArray v zeroArray) s))
  obtain ⟨g, -, position⟩ := done.block
  have advanced := done.advanced nonempty
  have cursor := t.idx.isLt
  have start : (respond .ok (loadArray (seedArray v zeroArray) s)).idx.val = 624 := rfl
  refine ⟨t, (execAll_cons_of_next _ seeded).trans done.run, by omega, ?_⟩
  rw [done.answers, start, outputsFrom_generationWords _ first, generationOutputs_seedArray, respond_respPort, words_ok,
    List.append_assoc, loadArray_respPort, List.singleton_append]

/-- Settles O42: the first three outputs of the first generation of seed 0. -/
theorem firstOutputsAfterSeedZero : Obligations.FirstOutputsAfterSeedZero := by
  unfold Obligations.FirstOutputsAfterSeedZero
  intro s
  obtain ⟨t, run, cursor, answers⟩ := execAll_seed_next 0#32 s (n := 3) (by decide) (by decide)
  rw [take_outputs_seedZero] at answers
  exact ⟨t, run, cursor, by simpa [outputResponses] using answers⟩

/-! ## The clone of seed 0x1571 -/

/-- The words R130 lists of the first generation of seed 0x1571, and word 0 of the second. -/
theorem generations_seed1571 :
    (twistList (seedList 0x00001571#32))[0]? = some 0x9b0afa27#32 ∧
    (twistList (seedList 0x00001571#32))[1]? = some 0xe99de361#32 ∧
    (twistList (seedList 0x00001571#32))[623]? = some 0xd1b102b7#32 ∧
    ((twistList (twistList (seedList 0x00001571#32)))[0]?).map temper = some 0xf914dc58#32 := by
  decide +kernel

theorem readWord_eq_of_toList {mt : MT} {k : Index} {w : Word} (h : mt.toList[k.val]? = some w) :
    readWord mt k = w :=
  Option.some.inj ((getElem?_toList mt k.val k.isLt).symm.trans h)

/-- Settles O50: the outputs are the tempered first generation, which is what they load into any block. -/
theorem cloneOfSeed1571 : Obligations.CloneOfSeed1571 := by
  unfold Obligations.CloneOfSeed1571
  intro a b
  obtain ⟨word0, word1, word623, second⟩ := generations_seed1571
  obtain ⟨G, words⟩ : ∃ G : MT, G.toList = twistList (seedList 0x00001571#32) :=
    ⟨_, by rw [twistArray_toList, seedArray_toList 0x00001571#32 zeroArray]⟩
  obtain ⟨a', run, -, answers⟩ := execAll_seed_next 0x00001571#32 a (n := 624) (by decide) (by decide)
  rw [← words, List.take_of_length_le (by simp)] at answers
  rw [← words] at word0 word1 word623 second
  refine ⟨a', _, _, G.toList.map temper, by simp, run, answers, ?_, ?_, ?_, exec_cloneLoad G b, rfl,
    readWord_eq_of_toList word0, readWord_eq_of_toList word1, readWord_eq_of_toList word623, exec_next32 _, ?_⟩
  · rw [List.getElem?_map, word0]; decide
  · rw [List.getElem?_map, word1]; decide
  · rw [List.getElem?_map, word623]; decide
  · rw [← twistArray_toList, getElem?_toList _ _ (by decide)] at second
    rw [respond_respPort, words_okWord, selectedWord_of_readyArray_eq _ _ _ (readyArray_of_exhausted _ rfl)]
    exact congrArg (_ ++ [0x00000001#32, ·]) (Option.some.inj second)

end Sys2Proof.Machine
end

section
/-! PROOFS. The host's side: the assembler's packets (spec/30_encoding.md R70) and `next_f64` (spec/45_output.md R145,
R146). -/

namespace Sys2Proof.Machine

/-! ## Assembler lines -/

/-- R60: the fields of a header do not overlap. -/
theorem toNat_makeHeader (op arg : Octet) (len : Nat) :
    (makeHeader op arg len).toNat = op.toNat * 2 ^ 24 + arg.toNat * 2 ^ 16 + len % 2 ^ 16 := by
  rw [makeHeader, BitVec.toNat_append, BitVec.toNat_append, BitVec.toNat_ofNat,
    ← Nat.shiftLeft_add_eq_or_of_lt arg.isLt, ← Nat.shiftLeft_add_eq_or_of_lt (Nat.mod_lt _ (by decide))]
  simp only [Nat.shiftLeft_eq]
  omega

theorem makeHeader_next (k : Octet) : makeHeader 0x02#8 k 0 = 0x02000000#32 + (k.setWidth 32 <<< 16) := by
  have hk := k.isLt
  apply BitVec.eq_of_toNat_eq
  rw [toNat_makeHeader, BitVec.toNat_add, BitVec.toNat_shiftLeft, BitVec.toNat_setWidth, Nat.shiftLeft_eq]
  simp only [BitVec.toNat_ofNat]
  omega

theorem makeHeader_reconstruct (n : Nat) (h : n < 65536) :
    makeHeader 0x03#8 0#8 n = 0x03000000#32 + BitVec.ofNat 32 n := by
  apply BitVec.eq_of_toNat_eq
  rw [toNat_makeHeader, BitVec.toNat_add]
  simp only [BitVec.toNat_ofNat]
  omega

/-- Settles O51: line by line, the header the table gives is the command's. -/
theorem assemblerLinesAreTheirPackets : Obligations.AssemblerLinesAreTheirPackets := by
  unfold Obligations.AssemblerLinesAreTheirPackets
  exact fun
    | .packet _ _, _, selected, len => encode_of_selectCommand len selected
    | .seedDefault, _, rfl, _ => encode_seed_nil
    | .seed v, _, rfl, _ => encode_seed_singleton v
    | .next, _, rfl, _ => encode_next_32
    | .nextWidth k, _, rfl, _ => congrArg (· :: []) (makeHeader_next k)
    | .reconstruct ws, _, rfl, short => congrArg (· :: ws) (makeHeader_reconstruct ws.length short)
    | .temper x, _, rfl, _ => encode_temper_singleton x
    | .untemper y, _, rfl, _ => encode_untemper_singleton y
    | .twist, _, rfl, _ => encode_twist_nil

/-! ## The double-precision adapter -/

/-- R145: dropping the low bits of a draw leaves its high bits. -/
theorem toNat_extractLsb'_high (d : Word) (s : Nat) (len : Nat) (whole : len + s = 32) :
    (d.extractLsb' s len).toNat = (d >>> s).toNat := by
  have fits : d.toNat >>> s < 2 ^ len := by
    rw [Nat.shiftRight_eq_div_pow]
    exact Nat.div_lt_of_lt_mul (by rw [← Nat.pow_add, Nat.add_comm, whole]; exact d.isLt)
  rw [BitVec.extractLsb'_toNat, BitVec.toNat_ushiftRight, Nat.mod_eq_of_lt fits]

theorem f64Mantissa_eq_append (d1 d2 : Word) :
    f64Mantissa d1 d2 = (d1.extractLsb' 5 27 ++ d2.extractLsb' 6 26 : BitVec (27 + 26)).toNat := by
  rw [BitVec.toNat_append, ← Nat.shiftLeft_add_eq_or_of_lt (BitVec.isLt _), Nat.shiftLeft_eq,
    toNat_extractLsb'_high d1 5 27 rfl, toNat_extractLsb'_high d2 6 26 rfl, f64Mantissa]

theorem f64Mantissa_lt (d1 d2 : Word) : f64Mantissa d1 d2 < 2 ^ 53 := by
  rw [f64Mantissa_eq_append]
  exact BitVec.isLt _

theorem f64Value_nonneg (d1 d2 : Word) : 0 ≤ f64Value d1 d2 := by
  unfold f64Value
  positivity

theorem f64Value_le (d1 d2 : Word) : f64Value d1 d2 ≤ 1 - 1 / 2 ^ 53 := by
  have bound : (f64Mantissa d1 d2 : ℚ) + 1 ≤ 2 ^ 53 := by
    exact_mod_cast f64Mantissa_lt d1 d2
  rw [f64Value, div_le_iff₀ (by positivity)]
  linarith

/-- Settles O52: the integer is two bit fields side by side; its bounds give those of the value; and the first two draws
are the first two outputs of seed 0. -/
theorem floatAdapterStaysBelowOne : Obligations.FloatAdapterStaysBelowOne := by
  unfold Obligations.FloatAdapterStaysBelowOne
  refine ⟨fun d1 d2 => ⟨f64Mantissa_eq_append d1 d2, Nat.le_sub_one_of_lt (f64Mantissa_lt d1 d2), f64Value_nonneg d1 d2,
    f64Value_le d1 d2, (f64Value_le d1 d2).trans_lt (by norm_num)⟩, ?_, ?_, fun s => ?_, by decide⟩
  · have least : f64Mantissa 0 0 = 0 := by decide
    rw [f64Value, least]
    norm_num
  · have greatest : f64Mantissa 0xffffffff#32 0xffffffff#32 = 2 ^ 53 - 1 := by decide
    rw [f64Value, greatest]
    norm_num
  · obtain ⟨t, run, -, answers⟩ := execAll_seed_next 0#32 s (n := 2) (by decide) (by decide)
    have draws : ((twistList (seedList 0#32)).map temper).take 2 = [2357136044#32, 2546248239#32] := by
      rw [show 2 = min 2 3 from rfl, ← List.take_take, take_outputs_seedZero]
      rfl
    rw [draws] at answers
    exact ⟨t, run, by simpa [outputResponses] using answers⟩

end Sys2Proof.Machine
end
